-- ==== Sys2Proof/Word.lean ====
section
/-! DEFINITION. Word types of the engine (spec/00_scope.md R9 to R11): 32-bit register values and addresses,
bytes of memory, 4-bit register numbers. -/

namespace Sys2Proof

/-- A register value, an address or an instruction word: "u32" (R10, R20). Arithmetic wraps modulo 2^32 (R11). -/
abbrev Word := BitVec 32

/-- One byte of memory (R50). -/
abbrev Byte := BitVec 8

/-- A register number: a 4-bit field that names any of the 16 registers (R20, R88). -/
abbrev Reg := BitVec 4

/-- Register 13, the stack pointer (R21). -/
abbrev Reg.sp : Reg := 13#4

/-- Register 14, the link register (R21). -/
abbrev Reg.lr : Reg := 14#4

/-- Register 15, the program counter (R21, R22). -/
abbrev Reg.pc : Reg := 15#4

end Sys2Proof
end

