-- ==== Sys2Proof/Config.lean ====
section
/-! DEFINITION. The parameters of the block (spec/00_scope.md R9): the constants the source fixes, and one record of
plain data for the parameters it leaves OPEN (spec/92_eei_decisions.md D1, D2, D5, D6, D7, D9). The record stands in
State and no step changes it (spec/10_state.md R34), so a statement over every state holds for every value of every
OPEN parameter. -/

namespace Sys2Proof

/-- The two readings of the classifier's first test (R79, 90_conflicts.md C1). -/
inductive BClassMask where
  /-- `B_CLASS_MASK = 0b111`, the primary reading: `w[27:25] = 101`. -/
  | m111
  /-- `B_CLASS_MASK = 0b101`: `w[27] = 1` and `w[25] = 1`. -/
  | m101
  deriving DecidableEq, Repr

/-- The policy for a word access at an address that is not a multiple of 4 (20_memory.md R55, D7). -/
inductive Misaligned where
  /-- The access ends the run with a memory fault. -/
  | fault
  /-- The access is four byte accesses at `a`, `a+1`, `a+2`, `a+3`. -/
  | bytewise
  deriving DecidableEq, Repr

/-- How the 4-bit rotate of an immediate operand 2 is applied (30_encoding.md R83, D9). -/
inductive ImmRotate where
  /-- The rotate field has no effect. -/
  | ignore
  /-- The byte is rotated right by twice the rotate field. -/
  | ror
  deriving DecidableEq, Repr, Inhabited

/-- The kind of a memory access (20_memory.md R54). A fetch is a read (R191). -/
inductive AccessKind where
  | read
  | write
  deriving DecidableEq, Repr

/-- A range of byte addresses the host's mapping holds, with what may be done there: one piece of the OPEN
predicate `Valid(a, kind)` (20_memory.md R54, D5). -/
structure Region where
  /-- The first byte's address. -/
  base : Nat
  /-- The number of bytes. -/
  size : Nat
  /-- `Valid(a, read)` holds for its bytes. -/
  readable : Bool
  /-- `Valid(a, write)` holds for its bytes. -/
  writable : Bool
  deriving DecidableEq, Repr

/-- The OPEN parameters of R9. -/
structure Config where
  /-- `STACK_BASE`, the address of the stack buffer's first byte (10_state.md R31, D6). -/
  stackBase : Word
  /-- `FLAG_EQ` (10_state.md R25, D1). -/
  flagEq : Word
  /-- `FLAG_GT`. -/
  flagGt : Word
  /-- `FLAG_LT`. -/
  flagLt : Word
  /-- `FLAG_NEG`, the multiply's sentinel. -/
  flagNeg : Word
  /-- `B_CLASS_MASK` (30_encoding.md R77, R79, D2). -/
  branchMask : BClassMask
  /-- `MISALIGNED` (20_memory.md R55, D7). -/
  misaligned : Misaligned
  /-- `IMM_ROTATE` (30_encoding.md R83, D9); `none` where it is not given: then the free choice
  `Config.openImmRotate` stands for it (notes/assumptions/1.md). -/
  immRotate : Option ImmRotate
  /-- `Valid(a, kind)` outside the stack buffer, as readable and writable byte ranges (20_memory.md R54, D5). -/
  regions : List Region
  deriving DecidableEq, Repr

/-- `STACK_SIZE`, 16 KiB (R9, 10_state.md R31). -/
def stackSize : Nat := 16384

/-- `MAX_ARGS` (R9). -/
def maxArgs : Int := 4

/-- `RET_SENTINEL`: the run ends when the program counter is this value (R9, 45_fetch_execute_loop.md R190). -/
def retSentinel : Word := 0#32

/-- The value of `IMM_ROTATE` on a machine for which it is not given: one of the two readings R83 admits, and nothing
says which. DESIGN CHOICE, safe: a statement about such a word holds for both readings (notes/assumptions/1.md). -/
opaque Config.openImmRotate : ImmRotate

/-- What the spec requires of the OPEN parameters: four pairwise distinct sentinels (10_state.md R25) and a stack buffer
that is 4-aligned and ends inside the address space (10_state.md R31). -/
abbrev Config.wf (c : Config) : Prop :=
  [c.flagEq, c.flagGt, c.flagLt, c.flagNeg].Nodup ∧ c.stackBase.toNat % 4 = 0 ∧
    c.stackBase.toNat + stackSize ≤ 2 ^ 32

end Sys2Proof
end

