-- ==== Sys2Proof/Syntax.lean ====
section
/-! DEFINITION. The instructions as data: one constructor for each row of spec/opcode_table.json. Every bit of a word that
its row's pattern does not fix is a field, the bits no unit reads among them, so that an instruction stands for exactly
one word (formats: spec/30_encoding.md R72 to R76). -/

namespace Sys2Proof

/-- The 2-bit shift code `w[6:5]` (R85), under its ARM names (R91). -/
inductive ShiftCode where
  /-- `00`: multiply by twice the amount. -/
  | lsl
  /-- `01`: the operand is unchanged. -/
  | lsr
  /-- `10`: divide, unsigned, by twice the amount. -/
  | asr
  /-- `11`: the operand is unchanged. -/
  | ror
  deriving DecidableEq, Repr

/-- Where the shift amount of a register operand comes from, by the selector `w[4]` (R72, R85). -/
inductive ShiftAmount where
  /-- `w[4] = 0`: the 5-bit field `shift_imm = w[11:7]`. -/
  | imm (amt : BitVec 5)
  /-- `w[4] = 1`: the low byte of register `rs = w[11:8]`; `bit7 = w[7]` is not read. -/
  | reg (rs : Reg) (bit7 : Bool)
  deriving DecidableEq, Repr

/-- The register form of `w[11:0]`, shared by operand 2 and the register offset (R72, R75, R85). -/
structure ShiftedReg where
  /-- `rm = w[3:0]`. -/
  rm : Reg
  /-- `shift = w[6:5]`. -/
  code : ShiftCode
  /-- The amount and its selector `w[4]`. -/
  amount : ShiftAmount
  deriving DecidableEq, Repr

/-- Operand 2 of a Data Processing word, by the selector `I = w[25]` (R72, R84). -/
inductive Operand2 where
  /-- `I = 1`: `rotate = w[11:8]`, `imm8 = w[7:0]`. -/
  | imm (rotate : BitVec 4) (imm8 : Byte)
  /-- `I = 0`. -/
  | reg (r : ShiftedReg)
  deriving DecidableEq, Repr

/-- The offset of a Single Data Transfer word, by the selector `I = w[25]` (R75, R86). -/
inductive SdtOffset where
  /-- `I = 0`: `imm12 = w[11:0]`. -/
  | imm (imm12 : BitVec 12)
  /-- `I = 1`. -/
  | reg (r : ShiftedReg)
  deriving DecidableEq, Repr

/-- The fields of a Data Processing word (R72); the opcode `w[24:21]` is the constructor. -/
structure DpFields where
  /-- `w[31:28]`, not read (R71, R108). -/
  cond : BitVec 4
  /-- `w[27:26]`, not read by the unit (R72). -/
  cls : BitVec 2
  /-- `S = w[20]`, read by no arm (R107). -/
  s : Bool
  /-- `rn = w[19:16]`. -/
  rn : Reg
  /-- `rd = w[15:12]`. -/
  rd : Reg
  /-- `I = w[25]` and `w[11:0]`. -/
  op2 : Operand2
  deriving DecidableEq, Repr

/-- The fields of a Multiply word (R73). -/
structure MulFields where
  /-- `w[31:28]`, not read. -/
  cond : BitVec 4
  /-- `A = w[21]`, ARM's accumulate bit, not read (R131). -/
  a : Bool
  /-- `S = w[20]`, the result-flag-set bit. -/
  s : Bool
  /-- `rd = w[19:16]`. -/
  rd : Reg
  /-- `rn = w[15:12]`, decoded and not read (R130). -/
  rn : Reg
  /-- `rs = w[11:8]`. -/
  rs : Reg
  /-- `rm = w[3:0]`. -/
  rm : Reg
  deriving DecidableEq, Repr

/-- The fields of a Branch-and-Exchange word (R74). -/
structure BxFields where
  /-- `w[31:28]`, not read. -/
  cond : BitVec 4
  /-- `rm = w[3:0]`. -/
  rm : Reg
  deriving DecidableEq, Repr

/-- The fields of a Single Data Transfer word (R75); `L = w[20]` is the constructor. -/
structure SdtFields where
  /-- `w[31:28]`, not read. -/
  cond : BitVec 4
  /-- `P = w[24]`: 1 = pre-indexing. -/
  p : Bool
  /-- `U = w[23]`: 1 = up. -/
  u : Bool
  /-- `B = w[22]`, ARM's byte bit, not read (R160). -/
  b : Bool
  /-- `W = w[21]`: 1 = write-back. -/
  w : Bool
  /-- `rn = w[19:16]`, the base register. -/
  rn : Reg
  /-- `rd = w[15:12]`, destination of a load, source of a store. -/
  rd : Reg
  /-- `I = w[25]` and `w[11:0]`. -/
  offset : SdtOffset
  deriving DecidableEq, Repr

/-- The fields of a Branch / Branch-Link word (R76); `L = w[24]` is the constructor. -/
structure BranchFields where
  /-- `w[31:28]`, the condition field. -/
  cond : BitVec 4
  /-- `w[26]`: 0 under `B_CLASS_MASK = 0b111`; not tested under `0b101` (R79). -/
  bit26 : Bool
  /-- `imm24 = w[23:0]`. -/
  imm24 : BitVec 24
  deriving DecidableEq, Repr

/-- The instructions: the 22 rows of spec/opcode_table.json, in the table's order. -/
inductive Instr where
  | mov (f : DpFields)
  | add (f : DpFields)
  | sub (f : DpFields)
  | cmp (f : DpFields)
  | and (f : DpFields)
  | eor (f : DpFields)
  | rsb (f : DpFields)
  | adc (f : DpFields)
  | sbc (f : DpFields)
  | rsc (f : DpFields)
  | tst (f : DpFields)
  | teq (f : DpFields)
  | cmn (f : DpFields)
  | orr (f : DpFields)
  | bic (f : DpFields)
  | mvn (f : DpFields)
  | mul (f : MulFields)
  | bx (f : BxFields)
  | ldr (f : SdtFields)
  | str (f : SdtFields)
  | b (f : BranchFields)
  | bl (f : BranchFields)
  deriving DecidableEq, Repr

/-- The five families of the classifier (R77). -/
inductive Family where
  | branch
  | singleDataTransfer
  | branchExchange
  | multiply
  | dataProcessing
  deriving DecidableEq, Repr

end Sys2Proof
end

