-- ==== Sys2Proof/WellFormed.lean ====
section
/-! DEFINITION. Which instructions have a word that the classifier gives back to their own family (spec/30_encoding.md R77
to R80). Data Processing is the catch-all, so a Data Processing instruction is well formed when its word is none of the
four earlier families'; a branch may have `w[26] = 1` only under the alternative mask (R79). Nothing else is restricted
(R88). -/

namespace Sys2Proof

/-- `I = w[25]` of operand 2. -/
def Operand2.isImm : Operand2 → Bool
  | .imm _ _ => true
  | .reg _ => false

/-- The word is not a Branch word: priority 1 takes `w[27:25] = 101`, and under `0b101` also `111` (R77, R79). -/
def DpFields.notBranch (m : BClassMask) (f : DpFields) : Bool :=
  match m with
  | .m111 => !(f.cls == 0b10#2 && f.op2.isImm)
  | .m101 => !((f.cls == 0b10#2 || f.cls == 0b11#2) && f.op2.isImm)

/-- The word is not a Single Data Transfer word: priority 2 takes `w[27:26] = 01`. -/
def DpFields.notSdt (f : DpFields) : Bool :=
  !(f.cls == 0b01#2)

/-- The word is not a Branch-and-Exchange word: of the opcodes, only TEQ (1001) has `w[27:4] = 0x12FFF1` among its words. -/
def DpFields.notBx (f : DpFields) : Bool :=
  match f.op2 with
  | .reg ⟨_, .lsl, .reg rs false⟩ =>
      !(f.cls == 0b00#2 && !f.s && f.rn == 15#4 && f.rd == 15#4 && rs == 15#4)
  | _ => true

/-- The word is not a Multiply word: of the opcodes, only AND (0000) and EOR (0001) have words with `w[27:22] = 0` and
`w[7:4] = 1001`. -/
def DpFields.notMul (f : DpFields) : Bool :=
  match f.op2 with
  | .reg ⟨_, .lsl, .reg _ true⟩ => !(f.cls == 0b00#2)
  | _ => true

/-- What every Data Processing row asks of its fields. -/
def DpFields.wf (m : BClassMask) (f : DpFields) : Bool :=
  f.notBranch m && f.notSdt

/-- A branch word has `w[26] = 0` unless the mask does not test that bit (R79). -/
def BranchFields.wf (m : BClassMask) (f : BranchFields) : Bool :=
  !f.bit26 || m == .m101

/-- The well-formed instructions, under a reading of `B_CLASS_MASK`. -/
def WellFormed (m : BClassMask) : Instr → Bool
  | .mov f => f.wf m
  | .add f => f.wf m
  | .sub f => f.wf m
  | .cmp f => f.wf m
  | .and f => f.wf m && f.notMul
  | .eor f => f.wf m && f.notMul
  | .rsb f => f.wf m
  | .adc f => f.wf m
  | .sbc f => f.wf m
  | .rsc f => f.wf m
  | .tst f => f.wf m
  | .teq f => f.wf m && f.notBx
  | .cmn f => f.wf m
  | .orr f => f.wf m
  | .bic f => f.wf m
  | .mvn f => f.wf m
  | .mul _ => true
  | .bx _ => true
  | .ldr _ => true
  | .str _ => true
  | .b f => f.wf m
  | .bl f => f.wf m

end Sys2Proof
end

