-- ==== Sys2Proof/Decode.lean ====
section
/-! DEFINITION. The classifier (spec/30_encoding.md R77 to R81), the decoder it leads to, total on any bytes, and the
encoder, both written from the formats R72 to R76 and the opcode map R82. A word in memory is little-endian
(spec/20_memory.md R52, D4). -/

namespace Sys2Proof

/-! ### Words and bytes -/

/-- The word whose bytes, lowest address first, are these (R52). -/
def wordOfBytes (b0 b1 b2 b3 : Byte) : Word :=
  b3 ++ b2 ++ b1 ++ b0

/-- The byte a word puts at its address plus `i` (R53). -/
def byteOfWord (v : Word) (i : Nat) : Byte :=
  v.extractLsb' (8 * i) 8

/-- The bytes of a word, lowest address first (R53). -/
def bytesOfWord (v : Word) : List Byte :=
  [byteOfWord v 0, byteOfWord v 1, byteOfWord v 2, byteOfWord v 3]

/-- The single bit `w[i]` (R10). -/
def bitOf (w : Word) (i : Nat) : Bool :=
  w.getLsbD i

/-- The 4-bit field whose lowest bit is `lo`: a register number, a condition, an opcode or a rotate. -/
def nibble (w : Word) (lo : Nat) : BitVec 4 :=
  w.extractLsb' lo 4

/-! ### The classifier -/

/-- The number of a reading of `B_CLASS_MASK` (R77). -/
def BClassMask.bits : BClassMask → Word
  | .m111 => 0b111#32
  | .m101 => 0b101#32

/-- R77, the fixed priority order, first match wins; the last test is R78's, true of every word. `none` is R81's
unrecognized-instruction condition, which no word reaches. -/
def classify (m : BClassMask) (w : Word) : Option Family :=
  if (w >>> 25) &&& m.bits = 0b101#32 then some .branch
  else if w.extractLsb' 26 2 = 0b01#2 then some .singleDataTransfer
  else if (w >>> 4) &&& 0xFFFFFF#32 = 0x12FFF1#32 then some .branchExchange
  else if w.extractLsb' 22 6 = 0#6 ∧ w.extractLsb' 4 4 = 0b1001#4 then some .multiply
  else if w &&& 0#32 = 0#32 then some .dataProcessing
  else none

/-! ### Fields -/

/-- The shift code of a 2-bit field (R85). -/
def ShiftCode.ofBits (b : BitVec 2) : ShiftCode :=
  if b = 0b00#2 then .lsl else if b = 0b01#2 then .lsr else if b = 0b10#2 then .asr else .ror

/-- The 2-bit field of a shift code. -/
def ShiftCode.bits : ShiftCode → BitVec 2
  | .lsl => 0b00#2
  | .lsr => 0b01#2
  | .asr => 0b10#2
  | .ror => 0b11#2

/-- The register form of `w[11:0]` (R72, R85). -/
def decodeShiftedReg (w : Word) : ShiftedReg where
  rm := nibble w 0
  code := ShiftCode.ofBits (w.extractLsb' 5 2)
  amount := if bitOf w 4 then .reg (nibble w 8) (bitOf w 7) else .imm (w.extractLsb' 7 5)

/-- Operand 2 (R72, R84): `I = 1` is the immediate form. -/
def decodeOperand2 (w : Word) : Operand2 :=
  if bitOf w 25 then .imm (nibble w 8) (w.extractLsb' 0 8) else .reg (decodeShiftedReg w)

/-- The offset of a Single Data Transfer word (R75, R86): `I = 0` is the immediate form. -/
def decodeSdtOffset (w : Word) : SdtOffset :=
  if bitOf w 25 then .reg (decodeShiftedReg w) else .imm (w.extractLsb' 0 12)

/-- The fields of a Data Processing word (R72). -/
def decodeDpFields (w : Word) : DpFields where
  cond := nibble w 28
  cls := w.extractLsb' 26 2
  s := bitOf w 20
  rn := nibble w 16
  rd := nibble w 12
  op2 := decodeOperand2 w

/-- The fields of a Multiply word (R73). -/
def decodeMulFields (w : Word) : MulFields where
  cond := nibble w 28
  a := bitOf w 21
  s := bitOf w 20
  rd := nibble w 16
  rn := nibble w 12
  rs := nibble w 8
  rm := nibble w 0

/-- The fields of a Branch-and-Exchange word (R74). -/
def decodeBxFields (w : Word) : BxFields where
  cond := nibble w 28
  rm := nibble w 0

/-- The fields of a Single Data Transfer word (R75). -/
def decodeSdtFields (w : Word) : SdtFields where
  cond := nibble w 28
  p := bitOf w 24
  u := bitOf w 23
  b := bitOf w 22
  w := bitOf w 21
  rn := nibble w 16
  rd := nibble w 12
  offset := decodeSdtOffset w

/-- The fields of a Branch word (R76). -/
def decodeBranchFields (w : Word) : BranchFields where
  cond := nibble w 28
  bit26 := bitOf w 26
  imm24 := w.extractLsb' 0 24

/-! ### The decoder -/

/-- The Data Processing opcode map `w[24:21]` (R82). -/
def dpInstr (opcode : BitVec 4) (f : DpFields) : Instr :=
  match opcode.toNat with
  | 0 => .and f
  | 1 => .eor f
  | 2 => .sub f
  | 3 => .rsb f
  | 4 => .add f
  | 5 => .adc f
  | 6 => .sbc f
  | 7 => .rsc f
  | 8 => .tst f
  | 9 => .teq f
  | 10 => .cmp f
  | 11 => .cmn f
  | 12 => .orr f
  | 13 => .mov f
  | 14 => .bic f
  | _ => .mvn f

/-- The instruction of a word of a family (R72 to R76, R82). -/
def decodeFamily (fam : Family) (w : Word) : Instr :=
  match fam with
  | .branch => if bitOf w 24 then .bl (decodeBranchFields w) else .b (decodeBranchFields w)
  | .singleDataTransfer => if bitOf w 20 then .ldr (decodeSdtFields w) else .str (decodeSdtFields w)
  | .branchExchange => .bx (decodeBxFields w)
  | .multiply => .mul (decodeMulFields w)
  | .dataProcessing => dpInstr (nibble w 21) (decodeDpFields w)

/-- Why the decoder gives no instruction. -/
inductive DecodeError where
  /-- Fewer than the four bytes of an instruction (R70). -/
  | tooFewBytes
  /-- The classifier gives the word no family (R81; no word reaches it). -/
  | unclassified (w : Word)
  deriving DecidableEq, Repr

/-- The instruction of a word, under a reading of `B_CLASS_MASK` (R77, R93). -/
def decodeWord (m : BClassMask) (w : Word) : Except DecodeError Instr :=
  match classify m w with
  | some fam => .ok (decodeFamily fam w)
  | none => .error (.unclassified w)

/-- The instruction at the head of a list of bytes, lowest address first, and the bytes after it: every instruction is
one 32-bit word (R70). -/
def decode (m : BClassMask) : List Byte → Except DecodeError (Instr × List Byte)
  | b0 :: b1 :: b2 :: b3 :: rest =>
      match decodeWord m (wordOfBytes b0 b1 b2 b3) with
      | .ok i => .ok (i, rest)
      | .error e => .error e
  | _ => .error .tooFewBytes

/-- The instruction the decoder reads from a word numbered as spec/opcode_table.json numbers it, under the primary
reading `B_CLASS_MASK = 0b111` that the table's Branch rows use (R93). -/
def decodeTableWord (nbits w : Nat) : Option Instr :=
  match decode .m111 (bytesOfWord (BitVec.ofNat 32 (w % 2 ^ nbits))) with
  | .ok (i, _) => some i
  | .error _ => none

/-! ### The encoder -/

/-- One bit of a field. -/
def bit (x : Bool) : BitVec 1 :=
  BitVec.ofBool x

/-- `w[11:0]` of the register form (R72). -/
def encodeShiftedReg (r : ShiftedReg) : BitVec 12 :=
  match r.amount with
  | .imm amt => amt ++ r.code.bits ++ 0#1 ++ r.rm
  | .reg rs bit7 => rs ++ bit bit7 ++ r.code.bits ++ 1#1 ++ r.rm

/-- `w[11:0]` of operand 2 (R72). -/
def encodeOperand2 : Operand2 → BitVec 12
  | .imm rotate imm8 => rotate ++ imm8
  | .reg r => encodeShiftedReg r

/-- `w[11:0]` of a Single Data Transfer offset (R75). -/
def encodeSdtOffset : SdtOffset → BitVec 12
  | .imm imm12 => imm12
  | .reg r => encodeShiftedReg r

/-- `I = w[25]` of a Single Data Transfer offset (R75, D20). -/
def SdtOffset.isReg : SdtOffset → Bool
  | .imm _ => false
  | .reg _ => true

/-- A Data Processing word (R72). -/
def encodeDp (opcode : BitVec 4) (f : DpFields) : Word :=
  f.cond ++ f.cls ++ bit f.op2.isImm ++ opcode ++ bit f.s ++ f.rn ++ f.rd ++ encodeOperand2 f.op2

/-- A Multiply word (R73). -/
def encodeMul (f : MulFields) : Word :=
  f.cond ++ 0b000000#6 ++ bit f.a ++ bit f.s ++ f.rd ++ f.rn ++ f.rs ++ 0b1001#4 ++ f.rm

/-- A Branch-and-Exchange word (R74). -/
def encodeBx (f : BxFields) : Word :=
  f.cond ++ 0x12FFF1#24 ++ f.rm

/-- A Single Data Transfer word (R75). -/
def encodeSdt (load : Bool) (f : SdtFields) : Word :=
  f.cond ++ 0b01#2 ++ bit f.offset.isReg ++ bit f.p ++ bit f.u ++ bit f.b ++ bit f.w ++ bit load ++ f.rn ++ f.rd ++
    encodeSdtOffset f.offset

/-- A Branch word (R76; `w[26]` as R79 leaves it). -/
def encodeBranch (link : Bool) (f : BranchFields) : Word :=
  f.cond ++ 1#1 ++ bit f.bit26 ++ 1#1 ++ bit link ++ f.imm24

/-- The word of an instruction. -/
def encode : Instr → Word
  | .mov f => encodeDp 0b1101#4 f
  | .add f => encodeDp 0b0100#4 f
  | .sub f => encodeDp 0b0010#4 f
  | .cmp f => encodeDp 0b1010#4 f
  | .and f => encodeDp 0b0000#4 f
  | .eor f => encodeDp 0b0001#4 f
  | .rsb f => encodeDp 0b0011#4 f
  | .adc f => encodeDp 0b0101#4 f
  | .sbc f => encodeDp 0b0110#4 f
  | .rsc f => encodeDp 0b0111#4 f
  | .tst f => encodeDp 0b1000#4 f
  | .teq f => encodeDp 0b1001#4 f
  | .cmn f => encodeDp 0b1011#4 f
  | .orr f => encodeDp 0b1100#4 f
  | .bic f => encodeDp 0b1110#4 f
  | .mvn f => encodeDp 0b1111#4 f
  | .mul f => encodeMul f
  | .bx f => encodeBx f
  | .ldr f => encodeSdt true f
  | .str f => encodeSdt false f
  | .b f => encodeBranch false f
  | .bl f => encodeBranch true f

/-- The family whose unit executes an instruction (R93), which selects its instruction-mix counter (R29). -/
def familyOf : Instr → Family
  | .mov _ => .dataProcessing
  | .add _ => .dataProcessing
  | .sub _ => .dataProcessing
  | .cmp _ => .dataProcessing
  | .and _ => .dataProcessing
  | .eor _ => .dataProcessing
  | .rsb _ => .dataProcessing
  | .adc _ => .dataProcessing
  | .sbc _ => .dataProcessing
  | .rsc _ => .dataProcessing
  | .tst _ => .dataProcessing
  | .teq _ => .dataProcessing
  | .cmn _ => .dataProcessing
  | .orr _ => .dataProcessing
  | .bic _ => .dataProcessing
  | .mvn _ => .dataProcessing
  | .mul _ => .multiply
  | .bx _ => .branchExchange
  | .ldr _ => .singleDataTransfer
  | .str _ => .singleDataTransfer
  | .b _ => .branch
  | .bl _ => .branch

end Sys2Proof
end

