-- ==== Sys2Proof/Machine/State.lean ====
section
/-! DEFINITION. The machine state (spec/10_state.md R20 to R36) as plain data, the reasons a step stops
(spec/60_exceptions.md R200), and the state right after reset (R36, 70_reset_and_hazards.md R230). -/

namespace Sys2Proof.Machine

/-- The reasons a step stops: the spec's three fatal kinds (R200), and the model's name for stepping a run that is
over (R35). -/
inductive Fault where
  /-- `Fatal(BadArgCount, argument_count)`, code 1 (R200, R201). Raised by the call driver's `loadCall`. Safe: the spec
  says the run ends there. -/
  | badArgCount (count : Int)
  /-- `Fatal(Unclassified, w)`, code 2 (R200, R202). Raised by the loop when the classifier gives no family, which no word
  reaches. Safe. -/
  | unclassified (w : Word)
  /-- `Fatal(MemoryFault, (address, kind))`, code 3 (R200, R203). Raised by the memory port for a fetch, a load or a store
  that is misaligned under `MISALIGNED = fault` or not `Valid`. Safe: the spec says the run ends there. -/
  | memoryFault (addr : Word) (kind : AccessKind)
  /-- No step follows `Done` (R35): raised by a step whose state is already `Done`. The model's own name, not a fatal kind
  of the spec. Safe: the result stands in that state (notes/assumptions/11.md). -/
  | runEnded
  deriving DecidableEq, Repr

/-- The reasons the model gives no meaning. -/
inductive Refusal where
  /-- The instruction of this row of the opcode table has no meaning in the model. Raised by an arm of `exec` that is
  still rejected by name; safe. No arm raises it now: every row has its meaning. -/
  | notModelled (mnemonic : String)
  deriving DecidableEq, Repr

/-- The run status (R35). -/
inductive RunStatus where
  /-- The loop executes. -/
  | running
  /-- The loop ended with `x[15] = 0` (R192). -/
  | done
  /-- A fatal condition ended the run (R200). -/
  | fatal (reason : Fault)
  deriving DecidableEq, Repr

/-- Memory: the bytes that differ from what an unlisted address reads as, each at its address (R50). -/
abbrev Memory := List Host.Cell

/-- The usage counters (R27 to R29), natural numbers (D24); no rule reads one (R30). -/
structure Telemetry where
  /-- `reg_reads[0..15]`. -/
  regReads : Vector Nat 16
  /-- `reg_writes[0..15]`. -/
  regWrites : Vector Nat 16
  /-- `flag_reads`. -/
  flagReads : Nat
  /-- `flag_writes`. -/
  flagWrites : Nat
  /-- `memory_op_count`. -/
  memoryOps : Nat
  /-- `compute_op_count`. -/
  computeOps : Nat
  /-- `branch_op_count`. -/
  branchOps : Nat
  deriving DecidableEq, Repr

/-- The machine state (R36), with the parameters of the run (R34). -/
structure State where
  /-- `x[0]`..`x[15]`; `x[15]` is the program counter (R20, R22). -/
  regs : Vector Word 16
  /-- The flag register (R24). -/
  flags : Word
  /-- The one address space, the stack buffer in it (R31, R50). -/
  mem : Memory
  /-- The telemetry counters (R27 to R29). -/
  telemetry : Telemetry
  /-- The run status (R35). -/
  status : RunStatus
  /-- The parameters of the run, which no step changes (R34). -/
  config : Config
  deriving DecidableEq, Repr

/-- All counters 0 (R27 to R29, R230). -/
def Telemetry.zero : Telemetry where
  regReads := Vector.replicate 16 0
  regWrites := Vector.replicate 16 0
  flagReads := 0
  flagWrites := 0
  memoryOps := 0
  computeOps := 0
  branchOps := 0

/-- The parameters the model gives a machine after reset: the spec's reference instantiation and defaults where it has
them (D1, D2, D7), the stack base of 95_test_vectors.md, the whole address space valid, `IMM_ROTATE` not given. DESIGN
CHOICE, unsafe for a statement about `State.reset` only (notes/assumptions/1.md to 7.md). -/
def referenceConfig : Config where
  stackBase := 0x00100000#32
  flagEq := 0x0#32
  flagGt := 0xC#32
  flagLt := 0xB#32
  flagNeg := 0x4#32
  branchMask := .m111
  misaligned := .fault
  immRotate := none
  regions := [⟨0, 2 ^ 32, true, true⟩]

/-- The machine right after reset, before the driver loads a call (R36, R230): every register, the flags, the stack buffer
and every counter 0. The status is `Running` (DESIGN CHOICE, notes/assumptions/10.md); memory lists nothing
(notes/assumptions/6.md). -/
def State.reset : State where
  regs := Vector.replicate 16 0#32
  flags := 0#32
  mem := []
  telemetry := Telemetry.zero
  status := .running
  config := referenceConfig

end Sys2Proof.Machine
end

