-- ==== Sys2Proof/Machine/Ops.lean ====
section
/-! DEFINITION. The named operations over registers, counters and memory that the units use (spec/00_scope.md R12), the
memory port (spec/20_memory.md R52 to R55), the program counter's advance, and the fatal stop (spec/60_exceptions.md
R200). There is no trap entry and no trap return in this hardware (R208, R209): every condition ends the run. -/

namespace Sys2Proof.Machine

/-! ### Registers and flags -/

/-- The `Vector` index of a register number. -/
theorem reg_lt (r : Reg) : r.toNat < 16 := r.isLt

/-- Read of `x[r]` (R12, R20). Counts nothing. -/
def State.reg (s : State) (r : Reg) : Word :=
  s.regs[r.toNat]'(reg_lt r)

/-- Write of `x[r]` (R12, R20). Counts nothing. -/
def State.setReg (s : State) (r : Reg) (v : Word) : State :=
  { s with regs := s.regs.set r.toNat v (reg_lt r) }

/-- The program counter, another name for `x[15]` (R12, R22). -/
def State.pc (s : State) : Word :=
  s.reg Reg.pc

/-- `pc <- target` (R12). Counts nothing. -/
def State.setPc (s : State) (v : Word) : State :=
  s.setReg Reg.pc v

/-- Write of the flag register (R24). Counts nothing. -/
def State.setFlags (s : State) (v : Word) : State :=
  { s with flags := v }

/-- Memory replaced (R50). -/
def State.setMem (s : State) (m : Memory) : State :=
  { s with mem := m }

/-- Change of the run status (R35). -/
def State.setStatus (s : State) (st : RunStatus) : State :=
  { s with status := st }

/-! ### Telemetry -/

/-- One more in the counter of a register. -/
def bump (v : Vector Nat 16) (r : Reg) : Vector Nat 16 :=
  v.set r.toNat (v[r.toNat]'(reg_lt r) + 1) (reg_lt r)

/-- `RR(r)` (R12, R27). -/
def State.countRead (s : State) (r : Reg) : State :=
  { s with telemetry := { s.telemetry with regReads := bump s.telemetry.regReads r } }

/-- `RW(r)` (R12, R27). -/
def State.countWrite (s : State) (r : Reg) : State :=
  { s with telemetry := { s.telemetry with regWrites := bump s.telemetry.regWrites r } }

/-- `FR` (R12, R28). -/
def State.countFlagRead (s : State) : State :=
  { s with telemetry := { s.telemetry with flagReads := s.telemetry.flagReads + 1 } }

/-- `FW` (R12, R28). -/
def State.countFlagWrite (s : State) : State :=
  { s with telemetry := { s.telemetry with flagWrites := s.telemetry.flagWrites + 1 } }

/-- The instruction-mix counter of a family (R29, R191). -/
def State.countFamily (s : State) (fam : Family) : State :=
  match fam with
  | .singleDataTransfer =>
      { s with telemetry := { s.telemetry with memoryOps := s.telemetry.memoryOps + 1 } }
  | .dataProcessing | .multiply =>
      { s with telemetry := { s.telemetry with computeOps := s.telemetry.computeOps + 1 } }
  | .branch | .branchExchange =>
      { s with telemetry := { s.telemetry with branchOps := s.telemetry.branchOps + 1 } }

/-- `reg_reads[r]` (R27). -/
def State.reads (s : State) (r : Reg) : Nat :=
  s.telemetry.regReads[r.toNat]'(reg_lt r)

/-- `reg_writes[r]` (R27). -/
def State.writes (s : State) (r : Reg) : Nat :=
  s.telemetry.regWrites[r.toNat]'(reg_lt r)

/-! ### Memory -/

/-- What an address that memory does not list reads as: 0 in the stack buffer, as the spec says (10_state.md R31), and
0 elsewhere, where the content at the start of a run is the OPEN `LaunchMem` (R54, D29). DESIGN CHOICE, unsafe for a
statement about the reset memory outside the stack buffer: a program and its data are listed (notes/assumptions/6.md). -/
def unlistedByte (_ : Nat) : Byte :=
  0#8

/-- The byte at an address. -/
def Memory.read : Memory → Nat → Byte
  | [], a => unlistedByte a
  | c :: m, a => if c.1 = a then c.2 else Memory.read m a

/-- Memory without an entry for an address. -/
def Memory.erase (m : Memory) (a : Nat) : Memory :=
  m.filter (fun c => c.1 ≠ a)

/-- A cell put before the first cell of a higher address. -/
def Memory.insert : Memory → Host.Cell → Memory
  | [], c => [c]
  | d :: m, c => if c.1 < d.1 then c :: d :: m else d :: Memory.insert m c

/-- Memory with the byte at an address replaced; the value an unlisted address reads as is not listed. -/
def Memory.write (m : Memory) (a : Nat) (v : Byte) : Memory :=
  if v = unlistedByte a then m.erase a else (m.erase a).insert (a, v)

/-- The canonical form: addresses strictly rising, inside the address space, no entry equal to what an unlisted address
reads as. -/
abbrev Memory.wf (m : Memory) : Prop :=
  m.Pairwise (fun c d => c.1 < d.1) ∧ ∀ c ∈ m, c.1 < 2 ^ 32 ∧ c.2 ≠ unlistedByte c.1

/-- The byte at a 32-bit address. -/
def State.byteAt (s : State) (a : Word) : Byte :=
  s.mem.read a.toNat

/-- Memory with a word's four bytes stored, lowest address first, addresses modulo 2^32 (R53, D3, D4). -/
def Memory.writeWord (m : Memory) (a : Word) (v : Word) : Memory :=
  (((m.write a.toNat (byteOfWord v 0)).write (a + 1#32).toNat (byteOfWord v 1)).write (a + 2#32).toNat
    (byteOfWord v 2)).write (a + 3#32).toNat (byteOfWord v 3)

/-! ### The memory port -/

/-- `Aligned(a)` (R52). -/
def aligned (a : Word) : Bool :=
  a.toNat % 4 == 0

/-- The byte lies in the stack buffer (10_state.md R31). -/
def inStack (c : Config) (a : Word) : Bool :=
  decide (c.stackBase.toNat ≤ a.toNat) && decide (a.toNat < c.stackBase.toNat + stackSize)

/-- A region admits an access of a kind. -/
def regionPermits (r : Region) : AccessKind → Bool
  | .read => r.readable
  | .write => r.writable

/-- A region holds a byte address. -/
def regionHolds (r : Region) (a : Word) : Bool :=
  decide (r.base ≤ a.toNat) && decide (a.toNat < r.base + r.size)

/-- `Valid(a, kind)` (R54): the stack buffer is valid for both kinds. -/
def validByte (c : Config) (a : Word) (k : AccessKind) : Bool :=
  inStack c a || c.regions.any (fun r => regionHolds r a && regionPermits r k)

/-- Whether the port makes a word access: the alignment test first, then the validity of each of the four bytes (R52,
R53, R207, D7). -/
def accessOk (c : Config) (a : Word) (k : AccessKind) : Bool :=
  (aligned a || c.misaligned == .bytewise) &&
    (validByte c a k && validByte c (a + 1#32) k && validByte c (a + 2#32) k && validByte c (a + 3#32) k)

/-- The word whose bytes stand at `a` to `a + 3` (R52). -/
def State.wordAt (s : State) (a : Word) : Word :=
  wordOfBytes (s.byteAt a) (s.byteAt (a + 1#32)) (s.byteAt (a + 2#32)) (s.byteAt (a + 3#32))

/-- `MemRead(a, 4)` (R52): the word, or the memory fault. -/
def memRead (s : State) (a : Word) : Except Fault Word :=
  if accessOk s.config a .read then .ok (s.wordAt a) else .error (.memoryFault a .read)

/-- `MemWrite(a, 4, v)` (R53): all four bytes written, or the memory fault and none. -/
def memWrite (s : State) (a v : Word) : Except Fault State :=
  if accessOk s.config a .write then .ok (s.setMem (s.mem.writeWord a v)) else .error (.memoryFault a .write)

/-! ### The program counter's advance -/

/-- `x[15] <- x[15] + 4` (R130): counts nothing. -/
def State.advance (s : State) : State :=
  s.setPc (s.pc + 4#32)

/-- `x[15] <- x[15] + 4; RR(15); RW(15)` (R100, R152). -/
def State.advanceCounted (s : State) : State :=
  ((s.advance).countRead Reg.pc).countWrite Reg.pc

/-! ### The fatal stop -/

/-- `raise Fatal(kind, info)` (R12, R200): the run ends, no state follows (R203, D27). -/
def raiseFatal (f : Fault) : Host.Outcome State Fault Refusal :=
  .fault f

/-- The spec's number of a fatal kind (R200, D31); `runEnded` is none of them. -/
def Fault.code : Fault → Option Nat
  | .badArgCount _ => some 1
  | .unclassified _ => some 2
  | .memoryFault _ _ => some 3
  | .runEnded => none

/-- What the driver sees of a run that a fatal condition ended: `status = Fatal(kind, info)` (R35, R200). The rest of the
state is not observable (R203, D27). -/
def State.endFatal (s : State) (f : Fault) : State :=
  s.setStatus (.fatal f)

end Sys2Proof.Machine
end

