-- ==== Sys2Proof/Machine/Flags.lean ====
section
/-! DEFINITION. The flag computations (spec/40_data_processing.md R104, spec/41_multiply.md R130) and the tests of the
conditional branch on them (spec/44_branch.md R171). -/

namespace Sys2Proof.Machine

/-- The sentinel of a comparison whose wrapped difference is `r` (R104): equal if zero, greater-than if positive as a signed
32-bit number (D18), else less-than. -/
def compareSentinel (c : Config) (r : Word) : Word :=
  if r = 0#32 then c.flagEq else if r.toInt > 0 then c.flagGt else c.flagLt

/-- CMP's whole effect on the flags (R104): `flags <- compare(a, op2); FW`. -/
def setCompareFlags (s : State) (a op2 : Word) : State :=
  (s.setFlags (compareSentinel s.config (a - op2))).countFlagWrite

/-- The product is negative: bit 31 of its low 32 bits (R130, D19). -/
def productNegative (p : Word) : Bool :=
  bitOf p 31

/-- MUL's effect on the flags (R130): `FLAG_NEG` only when `S = 1` and the product is negative; counts nothing (D22). -/
def setMultiplyFlags (s : State) (setFlags : Bool) (p : Word) : State :=
  if setFlags && productNegative p then s.setFlags s.config.flagNeg else s

/-- The 'not-equal' condition (R174). -/
def condNe : BitVec 4 := 0b0001#4

/-- The 'always' condition (R176, R177). -/
def condAl : BitVec 4 := 0b1110#4

/-- The condition field equals the flag register, as numbers: `zext_32(cond) = flags` (R171 case 3, D1). -/
def condIsFlags (s : State) (cond : BitVec 4) : Bool :=
  cond.setWidth 32 == s.flags

end Sys2Proof.Machine
end

