-- ==== Sys2Proof/Machine/Operands.lean ====
section
/-! DEFINITION. The operand decoders' values (spec/30_encoding.md R83 to R87): the immediate, the register form with its
multiply/divide shift stand-in, the load/store offset and the branch offset, with the register reads they count. -/

namespace Sys2Proof.Machine

/-- How the machine applies the rotate of an immediate: as `IMM_ROTATE` says, or, where it is not given, as the free choice
does (R83; DESIGN CHOICE, safe: notes/assumptions/1.md). -/
def immRotateOf (c : Config) : ImmRotate :=
  c.immRotate.getD Config.openImmRotate

/-- `zext_32(imm8)` under a rotate (R83): `ror` rotates right by `2 * rotate`. -/
def rotatedImm (m : ImmRotate) (rotate : BitVec 4) (imm8 : Byte) : Word :=
  match m with
  | .ignore => imm8.setWidth 32
  | .ror => (imm8.setWidth 32).rotateRight (2 * rotate.toNat)

/-- `ImmOperand` (R83): with `rotate = 0` the byte itself in every reading. Reads no register, counts nothing. -/
def immOperand (c : Config) (rotate : BitVec 4) (imm8 : Byte) : Word :=
  if rotate = 0#4 then imm8.setWidth 32 else rotatedImm (immRotateOf c) rotate imm8

/-- The shift amount (R85): the 5-bit field, or the low byte of `x[rs]`. -/
def shiftAmount (s : State) : ShiftAmount → Nat
  | .imm amt => amt.toNat
  | .reg rs _ => ((s.reg rs).extractLsb' 0 8).toNat

/-- `RR(rs)` for a register amount (R85). -/
def countAmountRead (s : State) : ShiftAmount → State
  | .imm _ => s
  | .reg rs _ => s.countRead rs

/-- The shift stand-in (R85, D11, D12): code `00` multiplies modulo 2^32, code `10` divides, unsigned, by twice a nonzero
amount; nothing else changes the value. -/
def shiftStandIn (code : ShiftCode) (amt : Nat) (v : Word) : Word :=
  if amt = 0 then v
  else
    match code with
    | .lsl => BitVec.ofNat 32 (v.toNat * (amt * 2))
    | .lsr => v
    | .asr => BitVec.ofNat 32 (v.toNat / (amt * 2))
    | .ror => v

/-- The value of `ShiftedReg(w)` (R85). -/
def shiftedRegValue (s : State) (r : ShiftedReg) : Word :=
  shiftStandIn r.code (shiftAmount s r.amount) (s.reg r.rm)

/-- The reads `ShiftedReg(w)` counts: `RR(rm)`, and `RR(rs)` for a register amount (R85). -/
def countShiftedReg (s : State) (r : ShiftedReg) : State :=
  countAmountRead (s.countRead r.rm) r.amount

/-- The value of `Operand2(w)` (R84). -/
def operand2Value (s : State) : Operand2 → Word
  | .imm rotate imm8 => immOperand s.config rotate imm8
  | .reg r => shiftedRegValue s r

/-- The reads `Operand2(w)` counts (R83, R85). -/
def countOperand2 (s : State) : Operand2 → State
  | .imm _ _ => s
  | .reg r => countShiftedReg s r

/-- The offset before the up/down bit (R86). -/
def sdtOffsetMagnitude (s : State) : SdtOffset → Word
  | .imm imm12 => imm12.setWidth 32
  | .reg r => shiftedRegValue s r

/-- The offset of a Single Data Transfer (R86, R151): negated when `U = 0`. -/
def sdtOffsetValue (s : State) (u : Bool) (o : SdtOffset) : Word :=
  if u then sdtOffsetMagnitude s o else -(sdtOffsetMagnitude s o)

/-- The reads the offset counts (R151). -/
def countSdtOffset (s : State) : SdtOffset → State
  | .imm _ => s
  | .reg r => countShiftedReg s r

/-- The branch offset `(sext_32(imm24) * 4) mod 2^32` (R87, D30). -/
def branchOffset (imm24 : BitVec 24) : Word :=
  imm24.signExtend 32 * 4#32

/-- The branch target `(pc + 8 + offset) mod 2^32` (R170, R171). -/
def branchTarget (pc : Word) (imm24 : BitVec 24) : Word :=
  pc + 8#32 + branchOffset imm24

end Sys2Proof.Machine
end

