-- ==== Sys2Proof/Machine/Branch.lean ====
section
/-! DEFINITION. The Branch / Branch-Link unit (spec/44_branch.md R170 to R180): the cases of R171, first match wins, with
their asymmetric counts (R178). -/

namespace Sys2Proof.Machine

/-- B (R172): cases 2 to 5 of R171; `x[15]` counts nothing in any of them (D22). -/
def execB (f : BranchFields) (s : State) : Host.Outcome State Fault Refusal :=
  if f.cond = condNe then
    -- case 2 (R174)
    if s.flags ≠ 0#32 then .next (s.countFlagRead.setPc (branchTarget s.pc f.imm24))
    else .next (s.countFlagRead.setPc (s.pc + 4#32))
  else if condIsFlags s f.cond then
    -- case 3 (R175)
    .next (s.countFlagRead.setPc (branchTarget s.pc f.imm24))
  else if f.cond ≠ condAl then
    -- case 4 (R176)
    .next (s.countFlagRead.setPc (s.pc + 4#32))
  else
    -- case 5 (R177)
    .next (s.setPc (branchTarget s.pc f.imm24))

/-- BL (R173), case 1 of R171: `RR(15); x[14] <- pc + 4; RW(14); x[15] <- pc + 8 + offset`. cond and flags are not read. -/
def execBl (f : BranchFields) (s : State) : Host.Outcome State Fault Refusal :=
  .next ((((s.countRead Reg.pc).setReg Reg.lr (s.pc + 4#32)).countWrite Reg.lr).setPc (branchTarget s.pc f.imm24))

end Sys2Proof.Machine
end

