-- ==== Sys2Proof/Machine/BranchExchange.lean ====
section
/-! DEFINITION. The Branch-and-Exchange unit (spec/42_branch_exchange.md R140, R141). cond is not read; there is no Thumb
state, so bit 0 of the target is kept. -/

namespace Sys2Proof.Machine

/-- BX (R140): `t <- x[m]; RR(m); x[15] <- t; RW(15)`. -/
def execBx (f : BxFields) (s : State) : Host.Outcome State Fault Refusal :=
  .next (((s.countRead f.rm).setPc (s.reg f.rm)).countWrite Reg.pc)

end Sys2Proof.Machine
end

