-- ==== Sys2Proof/Machine/DataProcessing.lean ====
section
/-! DEFINITION. The Data Processing unit (spec/40_data_processing.md R100 to R111): one sequence, with the arm of the
instruction in the middle. cond, S and `w[27:26]` are read by no arm (R107, R108, R72). -/

namespace Sys2Proof.Machine

/-- The sequence of every Data Processing word (R100): operand 2 with its counts, the arm, then the counted advance, which
reads what the arm left in `x[15]` (D13, D17). -/
def dpSequence (f : DpFields) (arm : Word → State → State) (s : State) : Host.Outcome State Fault Refusal :=
  .next (arm (operand2Value s f.op2) (countOperand2 s f.op2)).advanceCounted

/-- `x[d] <- v; RW(d)`. -/
def writeCounted (d : Reg) (v : Word) (s : State) : State :=
  (s.setReg d v).countWrite d

/-- The MOV arm (R101): `x[d] <- op2; RW(d)`. -/
def movArm (f : DpFields) (op2 : Word) (s : State) : State :=
  writeCounted f.rd op2 s

/-- The ADD arm (R102): `a <- x[n]; RR(n); x[d] <- a + op2; RW(d)`. -/
def addArm (f : DpFields) (op2 : Word) (s : State) : State :=
  writeCounted f.rd (s.reg f.rn + op2) (s.countRead f.rn)

/-- The SUB arm (R103): `a <- x[n]; RR(n); x[d] <- a - op2; RW(d)`. -/
def subArm (f : DpFields) (op2 : Word) (s : State) : State :=
  writeCounted f.rd (s.reg f.rn - op2) (s.countRead f.rn)

/-- The CMP arm (R104): `a <- x[n]; RR(n); flags <- compare(a, op2); FW`. -/
def cmpArm (f : DpFields) (op2 : Word) (s : State) : State :=
  setCompareFlags (s.countRead f.rn) (s.reg f.rn) op2

/-- The arm of the twelve no-op opcodes (R105): nothing. -/
def noOpArm (_ : Word) (s : State) : State :=
  s

/-- MOV (R101). -/
def execMov (f : DpFields) (s : State) : Host.Outcome State Fault Refusal :=
  dpSequence f (movArm f) s

/-- ADD (R102). -/
def execAdd (f : DpFields) (s : State) : Host.Outcome State Fault Refusal :=
  dpSequence f (addArm f) s

/-- SUB (R103). -/
def execSub (f : DpFields) (s : State) : Host.Outcome State Fault Refusal :=
  dpSequence f (subArm f) s

/-- CMP (R104). -/
def execCmp (f : DpFields) (s : State) : Host.Outcome State Fault Refusal :=
  dpSequence f (cmpArm f) s

/-- The opcode `0000`, ARM's AND: a no-op (R105). -/
def execAnd (f : DpFields) (s : State) : Host.Outcome State Fault Refusal :=
  dpSequence f noOpArm s

/-- The opcode `0001`, ARM's EOR: a no-op (R105). -/
def execEor (f : DpFields) (s : State) : Host.Outcome State Fault Refusal :=
  dpSequence f noOpArm s

/-- The opcode `0011`, ARM's RSB: a no-op (R105). -/
def execRsb (f : DpFields) (s : State) : Host.Outcome State Fault Refusal :=
  dpSequence f noOpArm s

/-- The opcode `0101`, ARM's ADC: a no-op (R105). -/
def execAdc (f : DpFields) (s : State) : Host.Outcome State Fault Refusal :=
  dpSequence f noOpArm s

/-- The opcode `0110`, ARM's SBC: a no-op (R105). -/
def execSbc (f : DpFields) (s : State) : Host.Outcome State Fault Refusal :=
  dpSequence f noOpArm s

/-- The opcode `0111`, ARM's RSC: a no-op (R105). -/
def execRsc (f : DpFields) (s : State) : Host.Outcome State Fault Refusal :=
  dpSequence f noOpArm s

/-- The opcode `1000`, ARM's TST: a no-op (R105). -/
def execTst (f : DpFields) (s : State) : Host.Outcome State Fault Refusal :=
  dpSequence f noOpArm s

/-- The opcode `1001`, ARM's TEQ: a no-op (R105). -/
def execTeq (f : DpFields) (s : State) : Host.Outcome State Fault Refusal :=
  dpSequence f noOpArm s

/-- The opcode `1011`, ARM's CMN: a no-op (R105). -/
def execCmn (f : DpFields) (s : State) : Host.Outcome State Fault Refusal :=
  dpSequence f noOpArm s

/-- The opcode `1100`, ARM's ORR: a no-op (R105). -/
def execOrr (f : DpFields) (s : State) : Host.Outcome State Fault Refusal :=
  dpSequence f noOpArm s

/-- The opcode `1110`, ARM's BIC: a no-op (R105). -/
def execBic (f : DpFields) (s : State) : Host.Outcome State Fault Refusal :=
  dpSequence f noOpArm s

/-- The opcode `1111`, ARM's MVN: a no-op (R105). -/
def execMvn (f : DpFields) (s : State) : Host.Outcome State Fault Refusal :=
  dpSequence f noOpArm s

end Sys2Proof.Machine
end

