-- ==== Sys2Proof/Machine/Multiply.lean ====
section
/-! DEFINITION. The Multiply unit (spec/41_multiply.md R130 to R132). cond, A and rn are not read (R131). -/

namespace Sys2Proof.Machine

/-- `a <- x[m]; RR(m); b <- x[s]; RR(s); x[d] <- a * b; RW(d)` and the flags (R130); both factors are read before `rd` is
written (R132). -/
def multiplyArm (f : MulFields) (s : State) : State :=
  setMultiplyFlags
    (((((s.countRead f.rm).countRead f.rs).setReg f.rd (s.reg f.rm * s.reg f.rs)).countWrite f.rd))
    f.s (s.reg f.rm * s.reg f.rs)

/-- MUL (R130): the arm, then the advance, which counts nothing (D22) and reads what the arm left in `x[15]` (D17). -/
def execMul (f : MulFields) (s : State) : Host.Outcome State Fault Refusal :=
  .next (multiplyArm f s).advance

end Sys2Proof.Machine
end

