-- ==== Sys2Proof/Machine/SingleDataTransfer.lean ====
section
/-! DEFINITION. The Single Data Transfer unit (spec/43_single_data_transfer.md R150 to R161), in the source's order of steps
(R152). cond and B are not read (R160). -/

namespace Sys2Proof.Machine

/-- `x[n] <- x[n] + offset` when the index bit asks for it (R152, R155); counts nothing. -/
def indexBase (go : Bool) (n : Reg) (offset : Word) (s : State) : State :=
  if go then s.setReg n (s.reg n + offset) else s

/-- The write-back step (R152): undone when `W = 0`, kept and counted as `RW(n)` when `W = 1`. -/
def writeBack (w : Bool) (n : Reg) (offset : Word) (s : State) : State :=
  if w then s.countWrite n else s.setReg n (s.reg n - offset)

/-- The steps of R152 up to the effective address: the offset with its counts, then the pre-index update. -/
def sdtIndexed (f : SdtFields) (s : State) : State :=
  indexBase f.p f.rn (sdtOffsetValue s f.u f.offset) (countSdtOffset s f.offset)

/-- The effective address (R152): the possibly updated base. -/
def effectiveAddress (f : SdtFields) (s : State) : Word :=
  (sdtIndexed f s).reg f.rn

/-- The steps of R152 after the access: the post-index update, the write-back step, the counted advance. -/
def sdtFinish (f : SdtFields) (offset : Word) (s : State) : State :=
  (writeBack f.w f.rn offset (indexBase (!f.p) f.rn offset s)).advanceCounted

/-- The sequence of every Single Data Transfer word (R152): a memory fault ends the run at the access (R159). -/
def sdtSequence (f : SdtFields) (access : Word → State → Except Fault State) (s : State) :
    Host.Outcome State Fault Refusal :=
  match access (effectiveAddress f s) (sdtIndexed f s) with
  | .ok s' => .next (sdtFinish f (sdtOffsetValue s f.u f.offset) s')
  | .error e => raiseFatal e

/-- The LDR arm (R153): `v <- MemRead(ea, 4); x[d] <- v; RW(d)`. -/
def loadArm (f : SdtFields) (ea : Word) (s : State) : Except Fault State :=
  match memRead s ea with
  | .ok v => .ok ((s.setReg f.rd v).countWrite f.rd)
  | .error e => .error e

/-- The STR arm (R154): `v <- x[d]; RR(d); MemWrite(ea, 4, v)`. -/
def storeArm (f : SdtFields) (ea : Word) (s : State) : Except Fault State :=
  memWrite (s.countRead f.rd) ea (s.reg f.rd)

/-- LDR (R153). -/
def execLdr (f : SdtFields) (s : State) : Host.Outcome State Fault Refusal :=
  sdtSequence f (loadArm f) s

/-- STR (R154). -/
def execStr (f : SdtFields) (s : State) : Host.Outcome State Fault Refusal :=
  sdtSequence f (storeArm f) s

end Sys2Proof.Machine
end

