-- ==== Sys2Proof/Machine/Dispatch.lean ====
section
/-! DEFINITION. The dispatch of an instruction to its meaning (spec/45_fetch_execute_loop.md R193): one arm per row of
spec/opcode_table.json. -/

namespace Sys2Proof.Machine

def exec (i : Instr) (s : State) : Host.Outcome State Fault Refusal :=
  match i with
  | .mov f => Sys2Proof.Machine.execMov f s
  | .add f => Sys2Proof.Machine.execAdd f s
  | .sub f => Sys2Proof.Machine.execSub f s
  | .cmp f => Sys2Proof.Machine.execCmp f s
  | .and f => Sys2Proof.Machine.execAnd f s
  | .eor f => Sys2Proof.Machine.execEor f s
  | .rsb f => Sys2Proof.Machine.execRsb f s
  | .adc f => Sys2Proof.Machine.execAdc f s
  | .sbc f => Sys2Proof.Machine.execSbc f s
  | .rsc f => Sys2Proof.Machine.execRsc f s
  | .tst f => Sys2Proof.Machine.execTst f s
  | .teq f => Sys2Proof.Machine.execTeq f s
  | .cmn f => Sys2Proof.Machine.execCmn f s
  | .orr f => Sys2Proof.Machine.execOrr f s
  | .bic f => Sys2Proof.Machine.execBic f s
  | .mvn f => Sys2Proof.Machine.execMvn f s
  | .mul f => Sys2Proof.Machine.execMul f s
  | .bx f => Sys2Proof.Machine.execBx f s
  | .ldr f => Sys2Proof.Machine.execLdr f s
  | .str f => Sys2Proof.Machine.execStr f s
  | .b f => Sys2Proof.Machine.execB f s
  | .bl f => Sys2Proof.Machine.execBl f s

end Sys2Proof.Machine
end

