-- ==== Sys2Proof/Machine/Loop.lean ====
section
/-! DEFINITION. The fetch-execute loop (spec/45_fetch_execute_loop.md R190 to R193): the loop's test, the fetch, the
classifier, the instruction-mix counter, the unit, and the end of the run. -/

namespace Sys2Proof.Machine

/-- The loop's test after an instruction (R190, R192, R197): the run is `Done` exactly when `x[15]` is the return sentinel. -/
def State.settle (s : State) : State :=
  if s.pc = retSentinel then s.setStatus .done else s

/-- An instruction's outcome with the loop's test made on it. -/
def settleOutcome : Host.Outcome State Fault Refusal → Host.Outcome State Fault Refusal
  | .next s => .next s.settle
  | .fault f => .fault f
  | .refused r => .refused r

/-- The dispatch of a decoded instruction (R191): its family's counter is incremented before its unit runs (D23). -/
def runInstr (i : Instr) (s : State) : Host.Outcome State Fault Refusal :=
  settleOutcome (exec i (s.countFamily (familyOf i)))

/-- One pass of the loop's body (R191): the fetch through the memory port, which counts nothing (D22), then the
classifier and the dispatch. -/
def fetchExecute (s : State) : Host.Outcome State Fault Refusal :=
  match memRead s s.pc with
  | .error f => raiseFatal f
  | .ok w =>
    match decodeWord s.config.branchMask w with
    | .error _ => raiseFatal (.unclassified w)
    | .ok i => runInstr i s

/-- One step of the loop (R190): the test precedes every fetch, so `x[15] = 0` ends the run without one (D26). No step
follows `Done` or `Fatal` (R35; notes/assumptions/11.md). -/
def loopStep (s : State) : Host.Outcome State Fault Refusal :=
  match s.status with
  | .running => if s.pc = retSentinel then .next (s.setStatus .done) else fetchExecute s
  | .done => .fault .runEnded
  | .fatal f => raiseFatal f

/-! ### Placing an instruction where the next step fetches -/

/-- The entry address a placed instruction gets where the state's own program counter cannot be fetched from. -/
def launchEntry : Word := 0x8000#32

/-- The loop fetches at this program counter: it is not the return sentinel and the port reads there. -/
def fetchable (s : State) : Bool :=
  s.pc != retSentinel && accessOk s.config s.pc .read

/-- A region that makes the four bytes of a placed instruction valid for read. -/
def launchRegion : Region := ⟨0x8000, 4, true, false⟩

/-- The state with the launch entry as its program counter and its four bytes valid for read. -/
def launchAt (s : State) : State :=
  { s.setPc launchEntry with config := { s.config with regions := launchRegion :: s.config.regions } }

/-- The state with a word stored where the next step fetches, and the run `Running`: what a call of `emu` with that word at
its entry address sets up for the fetch (R198, R231; notes/assumptions/12.md). The program counter and the valid addresses
change only where the state's own cannot be fetched from. -/
def placeWord (s : State) (w : Word) : State :=
  let t := if fetchable s then s else if accessOk s.config launchEntry .read then s.setPc launchEntry else launchAt s
  { t with mem := t.mem.writeWord t.pc w, status := .running }

end Sys2Proof.Machine
end

