-- ==== Sys2Proof/Machine/Step.lean ====
section
/-! DEFINITION. One step of the machine (spec/45_fetch_execute_loop.md R190, R191), and the state with an instruction placed
where that step fetches it. -/

namespace Sys2Proof.Machine

/-- One step: one pass of the fetch-execute loop. -/
def step (s : State) : Host.Outcome State Fault Refusal :=
  loopStep s

/-- The state with the instruction whose bits are `w` stored where `step` fetches its next instruction. -/
def State.withFetchWord (s : State) (nbits w : Nat) : State :=
  placeWord s (BitVec.ofNat 32 (w % 2 ^ nbits))

end Sys2Proof.Machine
end

