-- ==== Sys2Proof/Machine/Driver.lean ====
section
/-! DEFINITION. The call driver (spec/45_fetch_execute_loop.md R194, R195, R198, spec/70_reset_and_hazards.md R230 to R234):
the reset at the start of a call, the loading of the call, the loop, bounded, and what the driver reads at its end. -/

namespace Sys2Proof.Machine

/-- The stack buffer's bytes zeroed; every other byte keeps its content (R230, D29). -/
def zeroStack (c : Config) (m : Memory) : Memory :=
  m.filter (fun cell => !(decide (c.stackBase.toNat ≤ cell.1) && decide (cell.1 < c.stackBase.toNat + stackSize)))

/-- `ResetState()` (R230): registers, flags, stack buffer and counters zeroed, the run `Running`; memory outside the stack
buffer and the parameters are the host's and stay (R199, D29). -/
def resetState (s : State) : State where
  regs := Vector.replicate 16 0#32
  flags := 0#32
  mem := zeroStack s.config s.mem
  telemetry := Telemetry.zero
  status := .running
  config := s.config

/-- The first `n` argument values in registers 0 to `n - 1` (R231); these writes count nothing (D22). -/
def loadArgs (vals : Vector Word 4) : Nat → State → State
  | 0, s => s
  | 1, s => s.setReg 0#4 vals[0]
  | 2, s => (s.setReg 0#4 vals[0]).setReg 1#4 vals[1]
  | 3, s => ((s.setReg 0#4 vals[0]).setReg 1#4 vals[1]).setReg 2#4 vals[2]
  | _, s => (((s.setReg 0#4 vals[0]).setReg 1#4 vals[1]).setReg 2#4 vals[2]).setReg 3#4 vals[3]

/-- The initial stack pointer, `(STACK_BASE + 16384) mod 2^32` (R31, R231, D6). -/
def stackTop (c : Config) : Word :=
  c.stackBase + BitVec.ofNat 32 stackSize

/-- `LoadCall` (R231): the argument count is checked before any register is loaded (R201, D28), then the arguments, the
stack pointer, the link register and the entry address. -/
def loadCall (entry : Word) (count : Int) (vals : Vector Word 4) (s : State) : Host.Outcome State Fault Refusal :=
  if count < 0 ∨ count > maxArgs then raiseFatal (.badArgCount count)
  else .next ((((loadArgs vals count.toNat s).setReg Reg.sp (stackTop s.config)).setReg Reg.lr retSentinel).setPc entry)

/-- `RunLoop()` (R190), at most `n` steps: it stops early at `Done`, and at a fatal stop, which becomes the run status
(R200). A state still `Running` at the end is "no result yet" (R195, D26), never a result or a fault. -/
def runLoop : Nat → State → Host.Outcome State Fault Refusal
  | 0, s => .next s
  | n + 1, s =>
    match s.status with
    | .running =>
      match step s with
      | .next t => runLoop n t
      | .fault f => .next (s.endFatal f)
      | .refused r => .refused r
    | .done => .next s
    | .fatal _ => .next s

/-- What a call gives the driver (R194, R242). -/
inductive CallResult where
  /-- `Done`: the final `x[0]` and the counters, read-only (R194). -/
  | result (x0 : Word) (counters : Telemetry)
  /-- `Fatal(kind, info)`: no result (R200). -/
  | fatal (reason : Fault)
  /-- The bounded loop was exhausted: no result yet (R195). -/
  | noResultYet
  /-- The model gives no meaning (R219); no step of this model refuses. -/
  | refused (reason : Refusal)
  deriving DecidableEq, Repr

/-- What the driver reads of a loop's end (R194, R200, R195). -/
def readResult : Host.Outcome State Fault Refusal → CallResult
  | .next s =>
    match s.status with
    | .running => .noResultYet
    | .done => .result (s.reg 0#4) s.telemetry
    | .fatal f => .fatal f
  | .fault f => .fatal f
  | .refused r => .refused r

/-- `emu(entry_address, argument_count, argument_values)` (R7, R198) on a host whose memory and parameters are those of `s`,
with at most `fuel` instructions: reset, load the call, run, read the result. The loop's test comes before the first fetch,
so an entry address of 0 fetches nothing and returns `x[0]` (R190). -/
def emu (fuel : Nat) (entry : Word) (count : Int) (vals : Vector Word 4) (s : State) : CallResult :=
  match loadCall entry count vals (resetState s) with
  | .next t => readResult (runLoop fuel t.settle)
  | .fault f => .fatal f
  | .refused r => .refused r

end Sys2Proof.Machine
end

