-- ==== Sys2Proof/Safety.lean ====
section
/-! DEFINITION. The terms the claims use: the invariant every step keeps, what it is to leave the rest of the state
unchanged, how an instruction's counts are said, and the relation of two states that differ in telemetry only. -/

namespace Sys2Proof.Machine

/-! ### The invariant -/

/-- The flag register holds the reset value or one of the four sentinels: what R24 lets write it. -/
abbrev State.flagsLegal (s : State) : Prop :=
  s.flags ∈ [0#32, s.config.flagEq, s.config.flagGt, s.config.flagLt, s.config.flagNeg]

/-- Memory is in its canonical form, the parameters meet what the spec requires of them (10_state.md R25, R31), the flag
register holds a value the machine writes (R24), and a run that is `Done` has `x[15] = 0` (R35, R192). -/
structure State.Inv (s : State) : Prop where
  mem_wf : s.mem.wf
  config_wf : s.config.wf
  flags_legal : s.flagsLegal
  done_at_sentinel : s.status = .done → s.pc = retSentinel

/-! ### Frames -/

/-- Every byte of memory reads as before, and the run status and the parameters are unchanged. -/
structure RestSame (s t : State) : Prop where
  bytes : ∀ a : Word, t.byteAt a = s.byteAt a
  status : t.status = s.status
  config : t.config = s.config

/-- The telemetry of `t` is that of `s` with one `RR` for each register of a list, one `RW` for each of another, and so many
`FR` and `FW` (R12); the instruction-mix counters, which are the loop's (R191), are unchanged. -/
structure Counted (s t : State) (rr rw : List Reg) (fr fw : Nat) : Prop where
  reads : ∀ r : Reg, t.reads r = s.reads r + rr.count r
  writes : ∀ r : Reg, t.writes r = s.writes r + rw.count r
  flagReads : t.telemetry.flagReads = s.telemetry.flagReads + fr
  flagWrites : t.telemetry.flagWrites = s.telemetry.flagWrites + fw
  memoryOps : t.telemetry.memoryOps = s.telemetry.memoryOps
  computeOps : t.telemetry.computeOps = s.telemetry.computeOps
  branchOps : t.telemetry.branchOps = s.telemetry.branchOps

/-- What a register holds after a write of `v` to `x[d]` and the advance of `x[15]` by 4, which reads `x[15]` after that
write (R100, R109, R130, R132). -/
def afterWriteAdvance (s : State) (d : Reg) (v : Word) (r : Reg) : Word :=
  if r = Reg.pc then (if d = Reg.pc then v else s.pc) + 4#32
  else if r = d then v
  else s.reg r

/-- What a register holds after the advance of `x[15]` by 4 alone. -/
def afterAdvance (s : State) (r : Reg) : Word :=
  if r = Reg.pc then s.pc + 4#32 else s.reg r

/-- What a register holds after a jump. -/
def afterJump (s : State) (target : Word) (r : Reg) : Word :=
  if r = Reg.pc then target else s.reg r

/-! ### Counted reads of the operand forms -/

/-- The register of a register amount (R85). -/
def amountReads : ShiftAmount → List Reg
  | .imm _ => []
  | .reg rs _ => [rs]

/-- The reads the register form counts (R85): `rm`, then `rs`. -/
def shiftedRegReads (r : ShiftedReg) : List Reg :=
  r.rm :: amountReads r.amount

/-- The reads operand 2 counts (R83, R85). -/
def operand2Reads : Operand2 → List Reg
  | .imm _ _ => []
  | .reg r => shiftedRegReads r

/-- The reads a load or store offset counts (R151). -/
def offsetReads : SdtOffset → List Reg
  | .imm _ => []
  | .reg r => shiftedRegReads r

/-! ### Load and store -/

/-- The address a load or store accesses: the base, updated before the access when `P = 1` (R155). -/
def sdtAddress (f : SdtFields) (s : State) : Word :=
  if f.p then s.reg f.rn + sdtOffsetValue s f.u f.offset else s.reg f.rn

/-- The final base register of a store, or of a load into another register (R155). -/
def sdtBaseAfter (f : SdtFields) (s : State) : Word :=
  if f.w then s.reg f.rn + sdtOffsetValue s f.u f.offset else s.reg f.rn

/-- The final base register of a load into its own base, of the loaded word `v` (R156). -/
def loadedBaseAfter (f : SdtFields) (s : State) (v : Word) : Word :=
  match f.p, f.w with
  | true, false => v - sdtOffsetValue s f.u f.offset
  | true, true => v
  | false, false => v
  | false, true => v + sdtOffsetValue s f.u f.offset

/-- The word a store writes: the source register, after the pre-index update when it is the base (R154, R156). -/
def storedWord (f : SdtFields) (s : State) : Word :=
  if f.rd = f.rn then sdtAddress f s else s.reg f.rd

/-! ### Whole-machine relations -/

/-- Two states that differ in their telemetry at most. -/
structure SameButTelemetry (s t : State) : Prop where
  regs : s.regs = t.regs
  flags : s.flags = t.flags
  mem : s.mem = t.mem
  status : s.status = t.status
  config : s.config = t.config

/-- Two outcomes that differ in their next states' telemetry at most. -/
def SameOutcomeButTelemetry : Host.Outcome State Fault Refusal → Host.Outcome State Fault Refusal → Prop
  | .next s, .next t => SameButTelemetry s t
  | .fault f, .fault g => f = g
  | .refused r, .refused q => r = q
  | _, _ => False

/-- The number of instructions counted by family (R196). -/
def State.instructionCount (s : State) : Nat :=
  s.telemetry.memoryOps + s.telemetry.computeOps + s.telemetry.branchOps

/-- The instruction is CMP, the only one that counts a flag write (R28, R196). -/
def isCmp : Instr → Bool
  | .cmp _ => true
  | _ => false

/-- The instruction may write the flag register (R24): CMP, or MUL with its flag-set bit on. -/
def mayWriteFlags : Instr → Bool
  | .cmp _ => true
  | .mul f => f.s
  | _ => false

/-- The instruction is STR, the only one that writes memory (R50, R53). -/
def isStr : Instr → Bool
  | .str _ => true
  | _ => false

/-- A run that is stopped for good: `Done` or `Fatal` (R35). -/
def State.isOver (s : State) : Prop :=
  s.status ≠ .running

end Sys2Proof.Machine
end

