-- ==== Sys2Proof/Certificates/Slice0/Obligations.lean ====
section
/-! DEFINITION. The statements for the provers. Each is said of every state, so of every value of every OPEN parameter
(spec/00_scope.md R9), which stand in State; where a clause rests on a decision of the spec's own (92_eei_decisions.md) or of
the model (notes/assumptions), its docstring names it. -/

open Sys2Proof Sys2Proof.Machine

/-! ## Encoding -/

/-- R78: whatever the reading of the branch mask, every word is classified, and a word the first four tests of R77 reject is
executed by the Data Processing unit, whatever its bits 27:26. -/
def Obligations.ClassifierIsTotal : Prop :=
  ∀ (m : BClassMask) (w : Word),
    (∃ fam, classify m w = some fam) ∧
    ((w >>> 25) &&& m.bits ≠ 0b101#32 → w.extractLsb' 26 2 ≠ 0b01#2 → (w >>> 4) &&& 0xFFFFFF#32 ≠ 0x12FFF1#32 →
      ¬ (w.extractLsb' 22 6 = 0#6 ∧ w.extractLsb' 4 4 = 0b1001#4) →
      ∃ i, decodeWord m w = .ok i ∧ familyOf i = .dataProcessing)

/-- R77, R79, R80: each family is decided by its own bit pattern. Branch is `w[27:25] = 101`, or `w[27] = w[25] = 1` under the
alternative mask; a word of one of the other three patterns is never taken by another family. -/
def Obligations.FamiliesByPattern : Prop :=
  ∀ (m : BClassMask) (w : Word),
    (classify m w = some .branch ↔
      match m with
      | .m111 => w.extractLsb' 25 3 = 0b101#3
      | .m101 => w.getLsbD 27 = true ∧ w.getLsbD 25 = true) ∧
    (classify m w = some .singleDataTransfer ↔ w.extractLsb' 26 2 = 0b01#2) ∧
    (classify m w = some .branchExchange ↔ w.extractLsb' 4 24 = 0x12FFF1#24) ∧
    (classify m w = some .multiply ↔ w.extractLsb' 22 6 = 0#6 ∧ w.extractLsb' 4 4 = 0b1001#4)

/-- R79: the two readings of the mask give the same instruction to every word with `w[27:25] ≠ 111`. -/
def Obligations.MaskReadingsAgree : Prop :=
  ∀ w : Word, w.extractLsb' 25 3 ≠ 0b111#3 → decodeWord .m101 w = decodeWord .m111 w

/-- Decode and encode agree: the word of a well-formed instruction decodes to it, every field at every value, the fields no
unit reads among them (field positions: R72 to R76, D8). -/
def Obligations.DecodeOfEncode : Prop :=
  ∀ (m : BClassMask) (i : Instr), WellFormed m i = true → decodeWord m (encode i) = .ok i

/-- Encode and decode agree: every word decodes, to a well-formed instruction whose word it is; no bit of a word is dropped and
no two words are the same instruction. -/
def Obligations.EncodeOfDecode : Prop :=
  ∀ (m : BClassMask) (w : Word), ∃ i, decodeWord m w = .ok i ∧ WellFormed m i = true ∧ encode i = w

/-- The bytes of a word, lowest address first (R52, D4), decode to that word's instruction and leave the bytes after it. -/
def Obligations.DecodeReadsFourBytes : Prop :=
  ∀ (m : BClassMask) (i : Instr) (w : Word) (rest : List Byte),
    decodeWord m w = .ok i → decode m (bytesOfWord w ++ rest) = .ok (i, rest)

/-- Words of 95_test_vectors.md, one of each family and the corners between families, decode to the instructions they stand
for.
The decoder of the table's words takes the mask `0b111` (the model's choice, notes/assumptions/15.md; D2 leaves the mask OPEN):
the TST clause, of word `EF000000`, is of that reading. -/
def Obligations.WordsOfTheSpecDecode : Prop :=
  decodeTableWord 32 0xE0810002 = some (.add ⟨14#4, 0#2, false, 1#4, 0#4, .reg ⟨2#4, .lsl, .imm 0#5⟩⟩) ∧
  decodeTableWord 32 0xE1A00251 = some (.mov ⟨14#4, 0#2, false, 0#4, 0#4, .reg ⟨1#4, .asr, .reg 2#4 false⟩⟩) ∧
  decodeTableWord 32 0xE2411001 = some (.sub ⟨14#4, 0#2, false, 1#4, 1#4, .imm 0#4 1#8⟩) ∧
  decodeTableWord 32 0xE1510002 = some (.cmp ⟨14#4, 0#2, true, 1#4, 0#4, .reg ⟨2#4, .lsl, .imm 0#5⟩⟩) ∧
  decodeTableWord 32 0xE0110190 = some (.mul ⟨14#4, false, true, 1#4, 0#4, 1#4, 0#4⟩) ∧
  decodeTableWord 32 0xE12FFF1E = some (.bx ⟨14#4, 14#4⟩) ∧
  decodeTableWord 32 0xE5B10004 = some (.ldr ⟨14#4, true, true, false, true, 1#4, 0#4, .imm 4#12⟩) ∧
  decodeTableWord 32 0xE7805106 =
    some (.str ⟨14#4, true, true, false, false, 0#4, 5#4, .reg ⟨6#4, .lsl, .imm 2#5⟩⟩) ∧
  decodeTableWord 32 0x1A000000 = some (.b ⟨1#4, false, 0#24⟩) ∧
  decodeTableWord 32 0xEBFFFFFE = some (.bl ⟨14#4, false, 0xFFFFFE#24⟩) ∧
  decodeTableWord 32 0xEF000000 = some (.tst ⟨14#4, 3#2, false, 0#4, 0#4, .imm 0#4 0#8⟩) ∧
  decodeTableWord 32 0xE12FFF3E = some (.teq ⟨14#4, 0#2, false, 15#4, 15#4, .reg ⟨14#4, .lsr, .reg 15#4 false⟩⟩)

/-! ## Operands -/

/-- R83: an immediate operand 2 is the byte when `rotate = 0` or the rotate is ignored, and the byte rotated right by
`2 * rotate` under `ror`; where `IMM_ROTATE` is not given it is one of these two (notes/assumptions/1.md), and nothing else. -/
def Obligations.ImmediateOperandValues : Prop :=
  ∀ (s : State) (rotate : BitVec 4) (imm8 : Byte),
    (rotate = 0#4 → (operand2Value s (.imm rotate imm8)).toNat = imm8.toNat) ∧
    (s.config.immRotate = some .ignore → (operand2Value s (.imm rotate imm8)).toNat = imm8.toNat) ∧
    (s.config.immRotate = some .ror →
      operand2Value s (.imm rotate imm8) = (imm8.setWidth 32).rotateRight (2 * rotate.toNat)) ∧
    (s.config.immRotate = none →
      (operand2Value s (.imm rotate imm8)).toNat = imm8.toNat ∨
      operand2Value s (.imm rotate imm8) = (imm8.setWidth 32).rotateRight (2 * rotate.toNat))

/-- R85 (D10, D11, D12): the register form of operand 2. Code `00` multiplies by twice the amount modulo 2^32, code `10` divides
without sign by twice the amount, a zero amount and the codes `01` and `11` leave the register's value; the amount is the 5-bit
field or the low byte of `x[rs]`. -/
def Obligations.ShiftStandInValues : Prop :=
  ∀ (s : State) (r : ShiftedReg) (n : Nat),
    n = (match r.amount with
      | .imm amt => amt.toNat
      | .reg rs _ => (s.reg rs).toNat % 256) →
    (n = 0 ∨ r.code = .lsr ∨ r.code = .ror → operand2Value s (.reg r) = s.reg r.rm) ∧
    (r.code = .lsl → n ≠ 0 → (operand2Value s (.reg r)).toNat = (s.reg r.rm).toNat * (2 * n) % 2 ^ 32) ∧
    (r.code = .asr → n ≠ 0 → (operand2Value s (.reg r)).toNat = (s.reg r.rm).toNat / (2 * n))

/-- R86, R151: the offset of a load or store is the immediate, zero-extended, or the register form's value, negated modulo 2^32
when `U = 0`. -/
def Obligations.TransferOffsetValues : Prop :=
  ∀ (s : State) (u : Bool) (imm12 : BitVec 12) (r : ShiftedReg),
    (sdtOffsetValue s u (.imm imm12)).toInt = (if u then (imm12.toNat : Int) else -(imm12.toNat : Int)) ∧
    (sdtOffsetValue s u (.reg r)).toNat =
      (if u then (operand2Value s (.reg r)).toNat else (2 ^ 32 - (operand2Value s (.reg r)).toNat) % 2 ^ 32)

/-- R87 (D30): the branch offset is four times the signed 24-bit field, and spans `-2^25` to `2^25 - 4`. -/
def Obligations.BranchOffsetIsSignedWords : Prop :=
  ∀ imm24 : BitVec 24,
    (branchOffset imm24).toInt = imm24.toInt * 4 ∧
    -(2 ^ 25) ≤ (branchOffset imm24).toInt ∧ (branchOffset imm24).toInt ≤ 2 ^ 25 - 4

/-! ## Data Processing: results, counts and frames -/

/-- MOV completes from every state with every operand: `x[rd]` gets operand 2, then `x[15]` advances by 4 (after the write, so a
write of `x[15]` is followed by `+ 4`); operand 2's reads, `RW(rd)`, `RR(15)`, `RW(15)` are counted; flags and memory are
unchanged (R100, R101, R109; order and counts: D13, D17, D22).
That it completes for a rotated immediate where `IMM_ROTATE` is not given is the model's choice (D9,
notes/assumptions/1.md). -/
def Obligations.MovCompletes : Prop :=
  ∀ (f : DpFields) (s : State), ∃ t, exec (.mov f) s = .next t ∧
    (∀ r, t.reg r = afterWriteAdvance s f.rd (operand2Value s f.op2) r) ∧ t.flags = s.flags ∧ RestSame s t ∧
    Counted s t (operand2Reads f.op2 ++ [Reg.pc]) [f.rd, Reg.pc] 0 0

/-- ADD completes: `x[rd]` gets `x[rn]` plus operand 2 modulo 2^32; `RR(rn)` is counted too; otherwise as MOV (R100, R102, R107,
R109; D13, D14, D16, D17).
That it completes for a rotated immediate where `IMM_ROTATE` is not given is the model's choice (D9,
notes/assumptions/1.md). -/
def Obligations.AddCompletes : Prop :=
  ∀ (f : DpFields) (s : State), ∃ t, exec (.add f) s = .next t ∧
    (∀ r, t.reg r = afterWriteAdvance s f.rd
      (BitVec.ofNat 32 (((s.reg f.rn).toNat + (operand2Value s f.op2).toNat) % 2 ^ 32)) r) ∧
    t.flags = s.flags ∧ RestSame s t ∧
    Counted s t (operand2Reads f.op2 ++ [f.rn, Reg.pc]) [f.rd, Reg.pc] 0 0

/-- SUB completes: `x[rd]` gets `x[rn]` minus operand 2 modulo 2^32; otherwise as ADD (R100, R103, R107, R109).
That it completes for a rotated immediate where `IMM_ROTATE` is not given is the model's choice (D9,
notes/assumptions/1.md). -/
def Obligations.SubCompletes : Prop :=
  ∀ (f : DpFields) (s : State), ∃ t, exec (.sub f) s = .next t ∧
    (∀ r, t.reg r = afterWriteAdvance s f.rd
      (BitVec.ofInt 32 (((s.reg f.rn).toNat : Int) - ((operand2Value s f.op2).toNat : Int))) r) ∧
    t.flags = s.flags ∧ RestSame s t ∧
    Counted s t (operand2Reads f.op2 ++ [f.rn, Reg.pc]) [f.rd, Reg.pc] 0 0

/-- CMP completes: it sets the flags to the equal sentinel when `x[rn]` equals operand 2, else to the greater-than sentinel when
the wrapped difference is positive as a signed number (D18), else to the less-than sentinel, whatever S; it writes no register
but `x[15]`, counts `RR(rn)` and one flag write (R100, R104).
That it completes for a rotated immediate where `IMM_ROTATE` is not given is the model's choice (D9,
notes/assumptions/1.md). -/
def Obligations.CmpCompletes : Prop :=
  ∀ (f : DpFields) (s : State), ∃ t, exec (.cmp f) s = .next t ∧
    (s.reg f.rn = operand2Value s f.op2 → t.flags = s.config.flagEq) ∧
    (s.reg f.rn ≠ operand2Value s f.op2 → 0 < (s.reg f.rn - operand2Value s f.op2).toInt → t.flags = s.config.flagGt) ∧
    ((s.reg f.rn - operand2Value s f.op2).toInt < 0 → t.flags = s.config.flagLt) ∧
    (∀ r, t.reg r = afterAdvance s r) ∧ RestSame s t ∧
    Counted s t (operand2Reads f.op2 ++ [f.rn, Reg.pc]) [Reg.pc] 0 1

/-- The testable property of R104: for operands whose signed difference does not overflow, CMP's sentinel is the one of the
signed comparison.
That it completes for a rotated immediate where `IMM_ROTATE` is not given is the model's choice (D9,
notes/assumptions/1.md). -/
def Obligations.CmpIsSignedComparison : Prop :=
  ∀ (f : DpFields) (s : State),
    -(2 ^ 31) ≤ (s.reg f.rn).toInt - (operand2Value s f.op2).toInt →
    (s.reg f.rn).toInt - (operand2Value s f.op2).toInt < 2 ^ 31 →
    ∃ t, exec (.cmp f) s = .next t ∧
      t.flags = if (s.reg f.rn).toInt = (operand2Value s f.op2).toInt then s.config.flagEq
        else if (operand2Value s f.op2).toInt < (s.reg f.rn).toInt then s.config.flagGt else s.config.flagLt

/-- The twelve no-op opcodes complete: only `x[15]` advances; operand 2's reads are counted, `rn` is not (R100, R105; D13).
That they complete for a rotated immediate where `IMM_ROTATE` is not given is the model's choice (D9,
notes/assumptions/1.md). -/
def Obligations.NoOpOpcodesComplete : Prop :=
  ∀ (f : DpFields) (s : State) (i : Instr),
    i ∈ [Instr.and f, .eor f, .rsb f, .adc f, .sbc f, .rsc f, .tst f, .teq f, .cmn f, .orr f, .bic f, .mvn f] →
    ∃ t, exec i s = .next t ∧ (∀ r, t.reg r = afterAdvance s r) ∧ t.flags = s.flags ∧ RestSame s t ∧
      Counted s t (operand2Reads f.op2 ++ [Reg.pc]) [Reg.pc] 0 0

/-! ## Multiply, Branch-and-Exchange -/

/-- MUL completes: `x[rd]` gets the low 32 bits of `x[rm] * x[rs]`, both read before the write; the flags become `FLAG_NEG` exactly
when S is set and the product is negative as a signed 32-bit number, and are unchanged otherwise; the advance and the flag write
count nothing (R130, R132; D17, D19, D22). -/
def Obligations.MulCompletes : Prop :=
  ∀ (f : MulFields) (s : State), ∃ t p, exec (.mul f) s = .next t ∧
    p = BitVec.ofNat 32 ((s.reg f.rm).toNat * (s.reg f.rs).toNat) ∧
    (∀ r, t.reg r = afterWriteAdvance s f.rd p r) ∧
    t.flags = (if f.s = true ∧ p.toInt < 0 then s.config.flagNeg else s.flags) ∧ RestSame s t ∧
    Counted s t [f.rm, f.rs] [f.rd] 0 0

/-- R140: BX completes: the program counter gets the value of the register named by the low nibble, bit 0 as it stands and with no
`+ 4`; one read of the source register and one write of register 15 are counted; flags, memory and every other register are
unchanged. -/
def Obligations.BxCompletes : Prop :=
  ∀ (f : BxFields) (s : State), ∃ t, exec (.bx f) s = .next t ∧
    (∀ r, t.reg r = afterJump s (s.reg f.rm) r) ∧ t.flags = s.flags ∧ RestSame s t ∧
    Counted s t [f.rm] [Reg.pc] 0 0

/-! ## Single Data Transfer -/

/-- LDR completes where the port reads the address: the destination gets the word at the address. With another register as base,
the base ends as R155 says (kept only with `W = 1`); with the destination as base, the later index steps apply to the loaded word
(R156); then `x[15]` advances by 4 after every write (R152, R153, R157, R158; D17, D22). -/
def Obligations.LdrCompletes : Prop :=
  ∀ (f : SdtFields) (s : State), accessOk s.config (sdtAddress f s) .read = true →
    ∃ t v b, exec (.ldr f) s = .next t ∧
      v = s.wordAt (sdtAddress f s) ∧
      b = (if f.rd = f.rn then loadedBaseAfter f s v else sdtBaseAfter f s) ∧
      (∀ r, t.reg r =
        if r = Reg.pc then (if f.rn = Reg.pc then b else if f.rd = Reg.pc then v else s.pc) + 4#32
        else if r = f.rn then b else if r = f.rd then v else s.reg r) ∧
      t.flags = s.flags ∧ RestSame s t ∧
      Counted s t (offsetReads f.offset ++ [Reg.pc]) ([f.rd] ++ (if f.w then [f.rn] else []) ++ [Reg.pc]) 0 0

/-- STR completes where the port writes the address: the four bytes at the address become the source register's value (after the
pre-index update when it is the base), every other byte reads as before; the base ends as R155 says; then `x[15]` advances by 4
(R152, R154, R155, R156; D22). -/
def Obligations.StrCompletes : Prop :=
  ∀ (f : SdtFields) (s : State), accessOk s.config (sdtAddress f s) .write = true →
    ∃ t, exec (.str f) s = .next t ∧
      (∀ r, t.reg r =
        if r = Reg.pc then (if f.rn = Reg.pc then sdtBaseAfter f s else s.pc) + 4#32
        else if r = f.rn then sdtBaseAfter f s else s.reg r) ∧
      t.wordAt (sdtAddress f s) = storedWord f s ∧
      (∀ a : Word, a ≠ sdtAddress f s → a ≠ sdtAddress f s + 1#32 → a ≠ sdtAddress f s + 2#32 →
        a ≠ sdtAddress f s + 3#32 → t.byteAt a = s.byteAt a) ∧
      t.flags = s.flags ∧ t.status = s.status ∧ t.config = s.config ∧
      Counted s t (offsetReads f.offset ++ [f.rd, Reg.pc]) ((if f.w then [f.rn] else []) ++ [Reg.pc]) 0 0

/-- Where the port does not make the access, LDR and STR end the run with `Fatal(MemoryFault, (ea, kind))` and no state follows
(R153, R154, R159, R203). -/
def Obligations.TransferFaults : Prop :=
  ∀ (f : SdtFields) (s : State),
    (accessOk s.config (sdtAddress f s) .read = false →
      exec (.ldr f) s = .fault (.memoryFault (sdtAddress f s) .read)) ∧
    (accessOk s.config (sdtAddress f s) .write = false →
      exec (.str f) s = .fault (.memoryFault (sdtAddress f s) .write))

/-- R156: with the destination as its own base, pre-indexed and not written back, a load leaves the loaded word minus the offset
(not the loaded word), and counts one write of that register by the load. -/
def Obligations.LoadIntoBaseIsUndone : Prop :=
  ∀ (f : SdtFields) (s : State), f.rd = f.rn → f.rn ≠ Reg.pc → f.p = true → f.w = false →
    accessOk s.config (s.reg f.rn + sdtOffsetValue s f.u f.offset) .read = true →
    ∃ t, exec (.ldr f) s = .next t ∧
      t.reg f.rn = s.wordAt (s.reg f.rn + sdtOffsetValue s f.u f.offset) - sdtOffsetValue s f.u f.offset ∧
      t.writes f.rn = s.writes f.rn + 1

/-! ## Branch -/

/-- R174, case 2: a B with the 'not-equal' condition branches exactly when the flag register is not the number 0, and counts one flag
read either way and no register access (D22). -/
def Obligations.BranchNotEqual : Prop :=
  ∀ (f : BranchFields) (s : State), f.cond = 0b0001#4 →
    ∃ t, exec (.b f) s = .next t ∧
      (∀ r, t.reg r = afterJump s (if s.flags ≠ 0#32 then branchTarget s.pc f.imm24 else s.pc + 4#32) r) ∧
      t.flags = s.flags ∧ RestSame s t ∧ Counted s t [] [] 1 0

/-- R175, case 3: a B whose condition field, other than 'not-equal', is numerically the flag register branches, and counts one
flag read (D1, D22). -/
def Obligations.BranchConditionIsFlags : Prop :=
  ∀ (f : BranchFields) (s : State), f.cond ≠ 0b0001#4 → f.cond.toNat = s.flags.toNat →
    ∃ t, exec (.b f) s = .next t ∧
      (∀ r, t.reg r = afterJump s (branchTarget s.pc f.imm24) r) ∧
      t.flags = s.flags ∧ RestSame s t ∧ Counted s t [] [] 1 0

/-- R176, case 4: a B whose condition is neither 'not-equal', nor the flag register, nor 'always' does not branch: it goes to
`pc + 4`, and counts one flag read; condition `1111` is no exception. It counts
no register access (D22), and the comparison is with the whole 32-bit flag register (D1). -/
def Obligations.BranchNotTaken : Prop :=
  ∀ (f : BranchFields) (s : State), f.cond ≠ 0b0001#4 → f.cond.toNat ≠ s.flags.toNat → f.cond ≠ 0b1110#4 →
    ∃ t, exec (.b f) s = .next t ∧
      (∀ r, t.reg r = afterJump s (s.pc + 4#32) r) ∧
      t.flags = s.flags ∧ RestSame s t ∧ Counted s t [] [] 1 0

/-- R177, case 5: a B with the 'always' condition branches; it counts no flag read unless the flag register is `0xE`, where case 3
takes it and counts one. -/
def Obligations.BranchAlways : Prop :=
  ∀ (f : BranchFields) (s : State), f.cond = 0b1110#4 →
    ∃ t, exec (.b f) s = .next t ∧
      (∀ r, t.reg r = afterJump s (branchTarget s.pc f.imm24) r) ∧
      t.flags = s.flags ∧ RestSame s t ∧ Counted s t [] [] (if s.flags = 0xE#32 then 1 else 0) 0

/-- R173, case 1: BL completes: the link register gets `pc + 4`, the program counter `pc + 8 + offset`, whatever the condition field
and the flags; one read of register 15 and one write of register 14 are counted, no flag access (C2 of
90_conflicts.md, its reading of a damaged sentence: notes/assumptions/26.md) and no write of register 15 (D22). -/
def Obligations.BlCompletes : Prop :=
  ∀ (f : BranchFields) (s : State), ∃ t, exec (.bl f) s = .next t ∧
    (∀ r, t.reg r = if r = Reg.pc then s.pc + 8#32 + branchOffset f.imm24
      else if r = Reg.lr then s.pc + 4#32 else s.reg r) ∧
    t.flags = s.flags ∧ RestSame s t ∧ Counted s t [Reg.pc] [Reg.lr] 0 0

/-- R180: under the reference sentinels (notes/assumptions/3.md) and with a flag register a run can hold, B is taken for exactly
these pairs of condition and flags: EQ after 0, NE after C, B or 4, MI after 4, LT after B, GT after C, AL always; the target is taken
not to be `pc + 4`, so that the two outcomes differ. -/
def Obligations.ConditionTable : Prop :=
  ∀ (f : BranchFields) (s : State), s.flags ∈ [0x0#32, 0xC#32, 0xB#32, 0x4#32] → branchTarget s.pc f.imm24 ≠ s.pc + 4#32 →
    ∃ t, exec (.b f) s = .next t ∧
      (t.pc = branchTarget s.pc f.imm24 ↔
        (f.cond.toNat, s.flags.toNat) ∈
          [(0x0, 0x0), (0x1, 0xC), (0x1, 0xB), (0x1, 0x4), (0x4, 0x4), (0xB, 0xB), (0xC, 0xC), (0xE, 0x0), (0xE, 0xC),
            (0xE, 0xB), (0xE, 0x4)])

/-! ## The memory port -/

/-- R52, R53, R54, R55: the port makes a word access exactly when the address is a multiple of 4 or misaligned accesses are
bytewise, and each of the four bytes, addresses modulo 2^32, is in the stack buffer or in a region that admits the kind (D5, D7).
That `Valid` is a list of regions is the model's representation (notes/assumptions/8.md; their value at reset: 5.md). -/
def Obligations.PortAdmits : Prop :=
  ∀ (c : Config) (a : Word) (k : AccessKind),
    accessOk c a k = true ↔
      (a.toNat % 4 = 0 ∨ c.misaligned = .bytewise) ∧
      ∀ i < 4, ∃ n, n = (a.toNat + i) % 2 ^ 32 ∧
        ((c.stackBase.toNat ≤ n ∧ n < c.stackBase.toNat + 16384) ∨
          ∃ r ∈ c.regions, r.base ≤ n ∧ n < r.base + r.size ∧
            (match k with
              | .read => r.readable = true
              | .write => r.writable = true))

/-- R52 (D4): a word read is little-endian: the byte at the lowest address is bits 7:0. -/
def Obligations.ReadIsLittleEndian : Prop :=
  ∀ (s : State) (a v : Word), memRead s a = .ok v →
    v.toNat = (s.byteAt a).toNat + 2 ^ 8 * (s.byteAt (a + 1#32)).toNat + 2 ^ 16 * (s.byteAt (a + 2#32)).toNat +
      2 ^ 24 * (s.byteAt (a + 3#32)).toNat

/-- R53, R61: a word written is what a read of the same address gives, and no other byte changes. -/
def Obligations.StoreThenLoad : Prop :=
  ∀ (s t : State) (a v : Word), memWrite s a v = .ok t →
    t.wordAt a = v ∧ (accessOk s.config a .read = true → memRead t a = .ok v) ∧
    ∀ b : Word, b ≠ a → b ≠ a + 1#32 → b ≠ a + 2#32 → b ≠ a + 3#32 → t.byteAt b = s.byteAt b

/-- A store through the port keeps memory in its canonical form (the model's, notes/assumptions/6.md). -/
def Obligations.StoreKeepsCanonicalForm : Prop :=
  ∀ (s t : State) (a v : Word), s.mem.wf → memWrite s a v = .ok t → t.mem.wf

/-! ## The loop -/

/-- R191: when the run is `Running`, `x[15]` is not 0, the port reads there, and the four bytes there decode to `i`, a step is the
family's count followed by `exec i`, with the loop's test made on its next state (the model's reading, notes/assumptions/13.md); a fault of
`exec` is the step's fault. -/
def Obligations.StepRunsTheDecodedInstruction : Prop :=
  ∀ (s : State) (i : Instr) (rest : List Byte), s.status = .running → s.pc ≠ 0#32 →
    accessOk s.config s.pc .read = true →
    decode s.config.branchMask
      [s.byteAt s.pc, s.byteAt (s.pc + 1#32), s.byteAt (s.pc + 2#32), s.byteAt (s.pc + 3#32)] = .ok (i, rest) →
    step s =
      match exec i (s.countFamily (familyOf i)) with
      | .next t => .next (if t.pc = 0#32 then t.setStatus .done else t)
      | .fault f => .fault f
      | .refused r => .refused r

/-- R191, R203: a fetch the port does not make ends the run with `Fatal(MemoryFault, (x[15], read))`. -/
def Obligations.FetchFaults : Prop :=
  ∀ s : State, s.status = .running → s.pc ≠ 0#32 → accessOk s.config s.pc .read = false →
    step s = .fault (.memoryFault s.pc .read)

/-- R190 (D26): a `Running` step with `x[15] = 0` becomes `Done` and changes nothing else. -/
def Obligations.LoopEndsAtTheSentinel : Prop :=
  ∀ s : State, s.status = .running → s.pc = 0#32 →
    ∃ t, step s = .next t ∧ t.status = .done ∧ (∀ r, t.reg r = s.reg r) ∧ t.flags = s.flags ∧ t.mem = s.mem ∧
      t.telemetry = s.telemetry ∧ t.config = s.config

/-- R35: `Done` and `Fatal` are final: no state follows. That a step from `Done` is the stop `runEnded` is the model's choice
(notes/assumptions/11.md). -/
def Obligations.EndedRunsDoNotStep : Prop :=
  ∀ s : State, (s.status = .done → step s = .fault .runEnded) ∧ ∀ f, s.status = .fatal f → step s = .fault f

/-- R192, R197: after every step the run is `Done` exactly when `x[15]` is 0, and is otherwise still `Running`. That the test is
made at the end of the step is the model's reading (notes/assumptions/13.md). -/
def Obligations.DoneExactlyAtZero : Prop :=
  ∀ s t : State, step s = .next t → (t.status = .done ↔ t.pc = 0#32) ∧ (t.status = .running ↔ t.pc ≠ 0#32)

/-- R197, R200, R202: a `Running` step is never refused and never ends by `Unclassified`; if it does not give a state it ends by a
memory fault.
That a step is not refused where `IMM_ROTATE` is not given is the model's choice (D9, notes/assumptions/1.md). -/
def Obligations.OnlyMemoryFaultsStopARun : Prop :=
  ∀ s : State, s.status = .running →
    (∃ t, step s = .next t) ∨ ∃ a k, step s = .fault (.memoryFault a k)

/-- No instruction is refused, and the only instructions that can fault are LDR and STR, by a memory fault at the address they
access (R197, R211).
That an instruction is not refused where `IMM_ROTATE` is not given is the model's choice (D9, notes/assumptions/1.md). -/
def Obligations.OnlyTransfersFault : Prop :=
  ∀ (i : Instr) (s : State), (∃ t, exec i s = .next t) ∨
    ∃ f, (i = .ldr f ∧ exec i s = .fault (.memoryFault (sdtAddress f s) .read)) ∨
      (i = .str f ∧ exec i s = .fault (.memoryFault (sdtAddress f s) .write))

/-! ## Whole-machine rules -/

/-- Every step keeps the invariant: memory canonical and inside the address space, the parameters admissible, the flag register
holding 0 or a sentinel, `Done` only at `x[15] = 0` (R24, R25, R31, R35, R192). -/
def Obligations.StepKeepsInvariant : Prop :=
  ∀ s t : State, s.Inv → step s = .next t → t.Inv

/-- The reset state, with the parameters the model gives it (notes/assumptions/1.md to 7.md), meets the invariant. -/
def Obligations.ResetMeetsInvariant : Prop :=
  State.reset.Inv

/-- R30: no counter is ever consulted: two states that differ only in telemetry step alike, to states that differ only in telemetry
or to the same stop. -/
def Obligations.TelemetryNeverConsulted : Prop :=
  ∀ s t : State, SameButTelemetry s t → SameOutcomeButTelemetry (step s) (step t)

/-- R24: an instruction that gives a next state with another flag register is a CMP, or a MUL with its flag-set bit on that wrote
`FLAG_NEG`. -/
def Obligations.FlagsWrittenOnlyByCmpAndMul : Prop :=
  ∀ (i : Instr) (s t : State), exec i s = .next t → t.flags ≠ s.flags →
    (∃ f, i = .cmp f) ∨ ∃ f, i = .mul f ∧ f.s = true ∧ t.flags = s.config.flagNeg

/-- R50, R62: only STR changes memory; every other instruction that gives a next state leaves every byte. -/
def Obligations.OnlyStrWritesMemory : Prop :=
  ∀ (i : Instr) (s t : State), exec i s = .next t → (∀ f, i ≠ .str f) → ∀ a : Word, t.byteAt a = s.byteAt a

/-- R34: no step changes a parameter of the run. -/
def Obligations.StepKeepsParameters : Prop :=
  ∀ s t : State, step s = .next t → t.config = s.config

/-- R28, R196: an instruction counts one flag write exactly when it is CMP, and at most one flag read, and that only when it is B. -/
def Obligations.FlagCounts : Prop :=
  ∀ (i : Instr) (s t : State), exec i s = .next t →
    t.telemetry.flagWrites = s.telemetry.flagWrites + (if isCmp i then 1 else 0) ∧
    s.telemetry.flagReads ≤ t.telemetry.flagReads ∧ t.telemetry.flagReads ≤ s.telemetry.flagReads + 1 ∧
    (t.telemetry.flagReads ≠ s.telemetry.flagReads → ∃ f, i = .b f)

/-- R29, R191, R196 (D23): a step that runs an instruction adds exactly one to the three instruction-mix counters together, and to
the counter of the family: memory for Single Data Transfer, compute for Data Processing and Multiply, branch for the other two.
The family is the one the classifier gives the fetched word, and so also the one of the instruction it decodes to. -/
def Obligations.StepCountsItsFamily : Prop :=
  ∀ (s t : State) (i : Instr) (fam : Family), s.status = .running → s.pc ≠ 0#32 →
    decodeWord s.config.branchMask (s.wordAt s.pc) = .ok i →
    classify s.config.branchMask (s.wordAt s.pc) = some fam → step s = .next t →
    familyOf i = fam ∧ t.instructionCount = s.instructionCount + 1 ∧
    (fam = .singleDataTransfer → t.telemetry.memoryOps = s.telemetry.memoryOps + 1) ∧
    (fam = .dataProcessing ∨ fam = .multiply → t.telemetry.computeOps = s.telemetry.computeOps + 1) ∧
    (fam = .branch ∨ fam = .branchExchange → t.telemetry.branchOps = s.telemetry.branchOps + 1)

/-- R196: no counter ever decreases. -/
def Obligations.CountersNeverDecrease : Prop :=
  ∀ s t : State, step s = .next t →
    (∀ r, s.reads r ≤ t.reads r ∧ s.writes r ≤ t.writes r) ∧
    s.telemetry.flagReads ≤ t.telemetry.flagReads ∧ s.telemetry.flagWrites ≤ t.telemetry.flagWrites ∧
    s.telemetry.memoryOps ≤ t.telemetry.memoryOps ∧ s.telemetry.computeOps ≤ t.telemetry.computeOps ∧
    s.telemetry.branchOps ≤ t.telemetry.branchOps

/-- R71, R72, R79, R107, R108, R131, R160: the fields no unit reads have no effect: the condition field outside B, S and `w[27:26]`
of Data Processing, A and `rn` of Multiply, B of a transfer, `w[26]` of B and BL, and `w[7]` of a register shift amount, in operand
2 and in a transfer's offset (D10, D14, D15, D19, D20, D21). -/
def Obligations.UnreadFieldsHaveNoEffect : Prop :=
  (∀ (f : DpFields) (c : BitVec 4) (k : BitVec 2) (b : Bool) (s : State),
    ∀ mk ∈ [Instr.mov, Instr.add, Instr.sub, Instr.cmp, Instr.and, Instr.eor, Instr.rsb, Instr.adc, Instr.sbc, Instr.rsc,
      Instr.tst, Instr.teq, Instr.cmn, Instr.orr, Instr.bic, Instr.mvn],
    exec (mk { f with cond := c, cls := k, s := b }) s = exec (mk f) s ∧
    ∀ (rm rs : Reg) (code : ShiftCode) (b7 b7' : Bool),
      exec (mk { f with op2 := .reg ⟨rm, code, .reg rs b7⟩ }) s = exec (mk { f with op2 := .reg ⟨rm, code, .reg rs b7'⟩ }) s) ∧
  (∀ (f : MulFields) (c : BitVec 4) (b : Bool) (r : Reg) (s : State),
    exec (.mul { f with cond := c, a := b, rn := r }) s = exec (.mul f) s) ∧
  (∀ (f : BxFields) (c : BitVec 4) (s : State), exec (.bx { f with cond := c }) s = exec (.bx f) s) ∧
  (∀ (f : SdtFields) (c : BitVec 4) (b : Bool) (s : State), ∀ mk ∈ [Instr.ldr, Instr.str],
    exec (mk { f with cond := c, b := b }) s = exec (mk f) s ∧
    ∀ (rm rs : Reg) (code : ShiftCode) (b7 b7' : Bool),
      exec (mk { f with offset := .reg ⟨rm, code, .reg rs b7⟩ }) s =
        exec (mk { f with offset := .reg ⟨rm, code, .reg rs b7'⟩ }) s) ∧
  (∀ (f : BranchFields) (c : BitVec 4) (b26 : Bool) (s : State),
    exec (.b { f with bit26 := b26 }) s = exec (.b f) s ∧
    exec (.bl { f with cond := c, bit26 := b26 }) s = exec (.bl f) s)

/-! ## Reset, the call driver, runs -/

/-- R36: right after reset every register, the flag register, every byte of the stack buffer and every counter is 0. -/
def Obligations.ResetIsAllZero : Prop :=
  (∀ r, State.reset.reg r = 0#32) ∧ State.reset.flags = 0#32 ∧
  (∀ a : Word, inStack State.reset.config a = true → State.reset.byteAt a = 0#8) ∧
  (∀ r, State.reset.reads r = 0 ∧ State.reset.writes r = 0) ∧ State.reset.telemetry.flagReads = 0 ∧
  State.reset.telemetry.flagWrites = 0 ∧ State.reset.instructionCount = 0

/-- R230 (D29): on any host state, ResetState zeroes the registers, the flags, the counters and the bytes of the stack buffer, and no
byte outside it; the parameters stay. -/
def Obligations.ResetStateZeroes : Prop :=
  ∀ s : State,
    (∀ r, (resetState s).reg r = 0#32) ∧ (resetState s).flags = 0#32 ∧ (resetState s).telemetry = Telemetry.zero ∧
    (∀ a : Word, (resetState s).byteAt a = if inStack s.config a then 0#8 else s.byteAt a) ∧
    (resetState s).config = s.config ∧ (s.mem.wf → (resetState s).mem.wf)

/-- R231, R232 (D6, D25): with a count from 0 to 4, LoadCall puts the arguments in registers 0 to 3, leaving the registers past the
count, puts the stack's top in `x[13]`, 0 in `x[14]`, the entry address in `x[15]`, and changes nothing else. -/
def Obligations.LoadCallLoads : Prop :=
  ∀ (entry : Word) (count : Nat) (vals : Vector Word 4) (s : State), count ≤ 4 →
    ∃ t, loadCall entry count vals s = .next t ∧
      (∀ (i : Nat) (h : i < 4), t.reg (BitVec.ofNat 4 i) = if i < count then vals[i] else s.reg (BitVec.ofNat 4 i)) ∧
      (∀ r : Reg, 4 ≤ r.toNat → r.toNat ≤ 12 → t.reg r = s.reg r) ∧
      t.reg Reg.sp = s.config.stackBase + 16384#32 ∧ t.reg Reg.lr = 0#32 ∧ t.pc = entry ∧
      t.flags = s.flags ∧ t.mem = s.mem ∧ t.telemetry = s.telemetry ∧ t.status = s.status ∧ t.config = s.config

/-- R201 (C6): a negative argument count, and one above 4, end the call with `Fatal(BadArgCount, argument_count)`,
whatever the bound on the steps. -/
def Obligations.BadArgumentCountIsFatal : Prop :=
  ∀ (fuel : Nat) (entry : Word) (count : Int) (vals : Vector Word 4) (s : State), count < 0 ∨ 4 < count →
    emu fuel entry count vals s = .fatal (.badArgCount count)

/-- R194, R198: when a call's loop, within its bound, comes to a state that is `Done`, the call's result is that state's `x[0]` and
its counters. -/
def Obligations.CallReturnsRegisterZero : Prop :=
  ∀ (fuel : Nat) (entry : Word) (count : Nat) (vals : Vector Word 4) (s t u : State),
    loadCall entry count vals (resetState s) = .next t → runLoop fuel t.settle = .next u → u.status = .done →
    u.pc = 0#32 ∧ emu fuel entry count vals s = .result (u.reg 0#4) u.telemetry

/-- R195, D26: a bound decides nothing: once a run is over, a larger bound gives the same end. -/
def Obligations.LargerBoundSameEnd : Prop :=
  ∀ (n k : Nat) (s t : State), runLoop n s = .next t → t.status ≠ .running → runLoop (n + k) s = .next t

/-- R206, R179: a branch to itself (`B .`, word `EAFFFFFE`) is a hang: from every state that runs it the loop never ends, and after
`n` steps the run is still at the same address. -/
def Obligations.BranchToSelfNeverEnds : Prop :=
  ∀ (n : Nat) (s : State), s.status = .running → s.pc ≠ 0#32 → accessOk s.config s.pc .read = true →
    s.wordAt s.pc = 0xEAFFFFFE#32 →
    ∃ t, runLoop n s = .next t ∧ t.status = .running ∧ t.pc = s.pc ∧
      t.telemetry.branchOps = s.telemetry.branchOps + n

/-- R20, R88: every register number names a register of its own: a register written reads back what was written, and every other
register as before. -/
def Obligations.RegistersAreDistinct : Prop :=
  ∀ (s : State) (d r : Reg) (v : Word),
    (s.setReg d v).reg d = v ∧ (r ≠ d → (s.setReg d v).reg r = s.reg r)

/-- The word a state is given with `withFetchWord` is the one its next step decodes and runs, in the family's unit
(notes/assumptions/12.md). -/
def Obligations.PlacedWordIsRun : Prop :=
  ∀ (s : State) (w : Nat) (i : Instr), w < 2 ^ 32 →
    decodeWord s.config.branchMask (BitVec.ofNat 32 w) = .ok i →
    step (s.withFetchWord 32 w) =
      match exec i ((s.withFetchWord 32 w).countFamily (familyOf i)) with
      | .next t => .next (if t.pc = 0#32 then t.setStatus .done else t)
      | .fault f => .fault f
      | .refused r => .refused r
end

