-- ==== Sys2Proof/Laws/State.lean ====
section
/-! SUPPORT. The small lemmas of the state's updates: one per field per update, so that no proof unfolds a record update. -/

namespace Sys2Proof.Machine

/-! ### The one field an update writes -/

@[simp] theorem reg_setReg (s : State) (d : Reg) (v : Word) (r : Reg) :
    (s.setReg d v).reg r = if r = d then v else s.reg r := by
  simp only [State.reg, State.setReg, Vector.getElem_set, BitVec.toNat_inj, eq_comm]

@[simp] theorem reg_setPc (s : State) (v : Word) (r : Reg) :
    (s.setPc v).reg r = if r = Reg.pc then v else s.reg r :=
  reg_setReg s Reg.pc v r

@[simp] theorem pc_setReg (s : State) (d : Reg) (v : Word) :
    (s.setReg d v).pc = if Reg.pc = d then v else s.pc :=
  reg_setReg s d v Reg.pc

@[simp] theorem pc_setPc (s : State) (v : Word) : (s.setPc v).pc = v := by
  simp [State.setPc]

@[simp] theorem flags_setFlags (s : State) (v : Word) : (s.setFlags v).flags = v := rfl

@[simp] theorem status_setStatus (s : State) (st : RunStatus) : (s.setStatus st).status = st := rfl

@[simp] theorem status_endFatal (s : State) (f : Fault) : (s.endFatal f).status = .fatal f := rfl

@[simp] theorem reg_advance (s : State) (r : Reg) :
    s.advance.reg r = if r = Reg.pc then s.pc + 4#32 else s.reg r :=
  reg_setPc s _ r

@[simp] theorem pc_advance (s : State) : s.advance.pc = s.pc + 4#32 := pc_setPc s _

@[simp] theorem reg_advanceCounted (s : State) (r : Reg) :
    s.advanceCounted.reg r = if r = Reg.pc then s.pc + 4#32 else s.reg r :=
  reg_advance s r

@[simp] theorem pc_advanceCounted (s : State) : s.advanceCounted.pc = s.pc + 4#32 := pc_advance s

/-! ### The counters an update writes -/

@[simp] theorem getElem_bump (v : Vector Nat 16) (d r : Reg) :
    (bump v d)[r.toNat]'(reg_lt r) = v[r.toNat]'(reg_lt r) + if r = d then 1 else 0 := by
  unfold bump
  rw [Vector.getElem_set]
  by_cases h : r = d
  · subst h; simp
  · have h' : ¬ d.toNat = r.toNat := fun e => h (BitVec.toNat_inj.mp e).symm
    simp [h, h']

@[simp] theorem reads_countRead (s : State) (d r : Reg) :
    (s.countRead d).reads r = s.reads r + if r = d then 1 else 0 := getElem_bump _ d r

@[simp] theorem writes_countWrite (s : State) (d r : Reg) :
    (s.countWrite d).writes r = s.writes r + if r = d then 1 else 0 := getElem_bump _ d r

@[simp] theorem reads_setReg (s : State) (d : Reg) (v : Word) (r : Reg) : (s.setReg d v).reads r = s.reads r := rfl
@[simp] theorem writes_setReg (s : State) (d : Reg) (v : Word) (r : Reg) : (s.setReg d v).writes r = s.writes r := rfl
@[simp] theorem reads_setPc (s : State) (v : Word) (r : Reg) : (s.setPc v).reads r = s.reads r := rfl
@[simp] theorem writes_setPc (s : State) (v : Word) (r : Reg) : (s.setPc v).writes r = s.writes r := rfl
@[simp] theorem reads_setFlags (s : State) (v : Word) (r : Reg) : (s.setFlags v).reads r = s.reads r := rfl
@[simp] theorem writes_setFlags (s : State) (v : Word) (r : Reg) : (s.setFlags v).writes r = s.writes r := rfl
@[simp] theorem reads_setStatus (s : State) (st : RunStatus) (r : Reg) : (s.setStatus st).reads r = s.reads r := rfl
@[simp] theorem writes_setStatus (s : State) (st : RunStatus) (r : Reg) : (s.setStatus st).writes r = s.writes r := rfl
@[simp] theorem flagReads_countRead (s : State) (d : Reg) : (s.countRead d).telemetry.flagReads = s.telemetry.flagReads := rfl
@[simp] theorem flagWrites_countRead (s : State) (d : Reg) : (s.countRead d).telemetry.flagWrites = s.telemetry.flagWrites := rfl
@[simp] theorem memoryOps_countRead (s : State) (d : Reg) : (s.countRead d).telemetry.memoryOps = s.telemetry.memoryOps := rfl
@[simp] theorem computeOps_countRead (s : State) (d : Reg) : (s.countRead d).telemetry.computeOps = s.telemetry.computeOps := rfl
@[simp] theorem branchOps_countRead (s : State) (d : Reg) : (s.countRead d).telemetry.branchOps = s.telemetry.branchOps := rfl
@[simp] theorem writes_countRead (s : State) (d : Reg) (r : Reg) : (s.countRead d).writes r = s.writes r := rfl
@[simp] theorem flagReads_countWrite (s : State) (d : Reg) : (s.countWrite d).telemetry.flagReads = s.telemetry.flagReads := rfl
@[simp] theorem flagWrites_countWrite (s : State) (d : Reg) : (s.countWrite d).telemetry.flagWrites = s.telemetry.flagWrites := rfl
@[simp] theorem memoryOps_countWrite (s : State) (d : Reg) : (s.countWrite d).telemetry.memoryOps = s.telemetry.memoryOps := rfl
@[simp] theorem computeOps_countWrite (s : State) (d : Reg) : (s.countWrite d).telemetry.computeOps = s.telemetry.computeOps := rfl
@[simp] theorem branchOps_countWrite (s : State) (d : Reg) : (s.countWrite d).telemetry.branchOps = s.telemetry.branchOps := rfl
@[simp] theorem reads_countWrite (s : State) (d : Reg) (r : Reg) : (s.countWrite d).reads r = s.reads r := rfl
@[simp] theorem flagReads_countFlagRead (s : State) : s.countFlagRead.telemetry.flagReads = s.telemetry.flagReads + 1 := rfl
@[simp] theorem flagWrites_countFlagRead (s : State) : s.countFlagRead.telemetry.flagWrites = s.telemetry.flagWrites := rfl
@[simp] theorem memoryOps_countFlagRead (s : State) : s.countFlagRead.telemetry.memoryOps = s.telemetry.memoryOps := rfl
@[simp] theorem computeOps_countFlagRead (s : State) : s.countFlagRead.telemetry.computeOps = s.telemetry.computeOps := rfl
@[simp] theorem branchOps_countFlagRead (s : State) : s.countFlagRead.telemetry.branchOps = s.telemetry.branchOps := rfl
@[simp] theorem reads_countFlagRead (s : State) (r : Reg) : s.countFlagRead.reads r = s.reads r := rfl
@[simp] theorem writes_countFlagRead (s : State) (r : Reg) : s.countFlagRead.writes r = s.writes r := rfl
@[simp] theorem flagReads_countFlagWrite (s : State) : s.countFlagWrite.telemetry.flagReads = s.telemetry.flagReads := rfl
@[simp] theorem flagWrites_countFlagWrite (s : State) : s.countFlagWrite.telemetry.flagWrites = s.telemetry.flagWrites + 1 := rfl
@[simp] theorem memoryOps_countFlagWrite (s : State) : s.countFlagWrite.telemetry.memoryOps = s.telemetry.memoryOps := rfl
@[simp] theorem computeOps_countFlagWrite (s : State) : s.countFlagWrite.telemetry.computeOps = s.telemetry.computeOps := rfl
@[simp] theorem branchOps_countFlagWrite (s : State) : s.countFlagWrite.telemetry.branchOps = s.telemetry.branchOps := rfl
@[simp] theorem reads_countFlagWrite (s : State) (r : Reg) : s.countFlagWrite.reads r = s.reads r := rfl
@[simp] theorem writes_countFlagWrite (s : State) (r : Reg) : s.countFlagWrite.writes r = s.writes r := rfl
@[simp] theorem reads_advance (s : State) (r : Reg) : s.advance.reads r = s.reads r := rfl
@[simp] theorem writes_advance (s : State) (r : Reg) : s.advance.writes r = s.writes r := rfl
@[simp] theorem flagReads_advanceCounted (s : State) : s.advanceCounted.telemetry.flagReads = s.telemetry.flagReads := rfl
@[simp] theorem flagWrites_advanceCounted (s : State) : s.advanceCounted.telemetry.flagWrites = s.telemetry.flagWrites := rfl
@[simp] theorem memoryOps_advanceCounted (s : State) : s.advanceCounted.telemetry.memoryOps = s.telemetry.memoryOps := rfl
@[simp] theorem computeOps_advanceCounted (s : State) : s.advanceCounted.telemetry.computeOps = s.telemetry.computeOps := rfl
@[simp] theorem branchOps_advanceCounted (s : State) : s.advanceCounted.telemetry.branchOps = s.telemetry.branchOps := rfl
@[simp] theorem reads_endFatal (s : State) (f : Fault) (r : Reg) : (s.endFatal f).reads r = s.reads r := rfl
@[simp] theorem writes_endFatal (s : State) (f : Fault) (r : Reg) : (s.endFatal f).writes r = s.writes r := rfl

@[simp] theorem reads_advanceCounted (s : State) (r : Reg) :
    s.advanceCounted.reads r = s.reads r + if r = Reg.pc then 1 else 0 :=
  reads_countRead s.advance Reg.pc r

@[simp] theorem writes_advanceCounted (s : State) (r : Reg) :
    s.advanceCounted.writes r = s.writes r + if r = Reg.pc then 1 else 0 :=
  writes_countWrite (s.advance.countRead Reg.pc) Reg.pc r

@[simp] theorem reads_countFamily (s : State) (fam : Family) (r : Reg) :
    (s.countFamily fam).reads r = s.reads r := by cases fam <;> rfl

@[simp] theorem writes_countFamily (s : State) (fam : Family) (r : Reg) :
    (s.countFamily fam).writes r = s.writes r := by cases fam <;> rfl

@[simp] theorem flagReads_countFamily (s : State) (fam : Family) :
    (s.countFamily fam).telemetry.flagReads = s.telemetry.flagReads := by cases fam <;> rfl

@[simp] theorem flagWrites_countFamily (s : State) (fam : Family) :
    (s.countFamily fam).telemetry.flagWrites = s.telemetry.flagWrites := by cases fam <;> rfl

/-! ### The fields an update leaves alone -/

@[simp] theorem flags_setReg (s : State) (d : Reg) (v : Word) : (s.setReg d v).flags = s.flags := rfl
@[simp] theorem mem_setReg (s : State) (d : Reg) (v : Word) : (s.setReg d v).mem = s.mem := rfl
@[simp] theorem telemetry_setReg (s : State) (d : Reg) (v : Word) : (s.setReg d v).telemetry = s.telemetry := rfl
@[simp] theorem status_setReg (s : State) (d : Reg) (v : Word) : (s.setReg d v).status = s.status := rfl
@[simp] theorem config_setReg (s : State) (d : Reg) (v : Word) : (s.setReg d v).config = s.config := rfl
@[simp] theorem flags_setPc (s : State) (v : Word) : (s.setPc v).flags = s.flags := rfl
@[simp] theorem mem_setPc (s : State) (v : Word) : (s.setPc v).mem = s.mem := rfl
@[simp] theorem telemetry_setPc (s : State) (v : Word) : (s.setPc v).telemetry = s.telemetry := rfl
@[simp] theorem status_setPc (s : State) (v : Word) : (s.setPc v).status = s.status := rfl
@[simp] theorem config_setPc (s : State) (v : Word) : (s.setPc v).config = s.config := rfl
@[simp] theorem reg_setFlags (s : State) (v : Word) (r : Reg) : (s.setFlags v).reg r = s.reg r := rfl
@[simp] theorem pc_setFlags (s : State) (v : Word) : (s.setFlags v).pc = s.pc := rfl
@[simp] theorem mem_setFlags (s : State) (v : Word) : (s.setFlags v).mem = s.mem := rfl
@[simp] theorem telemetry_setFlags (s : State) (v : Word) : (s.setFlags v).telemetry = s.telemetry := rfl
@[simp] theorem status_setFlags (s : State) (v : Word) : (s.setFlags v).status = s.status := rfl
@[simp] theorem config_setFlags (s : State) (v : Word) : (s.setFlags v).config = s.config := rfl
@[simp] theorem reg_setStatus (s : State) (st : RunStatus) (r : Reg) : (s.setStatus st).reg r = s.reg r := rfl
@[simp] theorem pc_setStatus (s : State) (st : RunStatus) : (s.setStatus st).pc = s.pc := rfl
@[simp] theorem flags_setStatus (s : State) (st : RunStatus) : (s.setStatus st).flags = s.flags := rfl
@[simp] theorem mem_setStatus (s : State) (st : RunStatus) : (s.setStatus st).mem = s.mem := rfl
@[simp] theorem telemetry_setStatus (s : State) (st : RunStatus) : (s.setStatus st).telemetry = s.telemetry := rfl
@[simp] theorem config_setStatus (s : State) (st : RunStatus) : (s.setStatus st).config = s.config := rfl
@[simp] theorem reg_countRead (s : State) (d : Reg) (r : Reg) : (s.countRead d).reg r = s.reg r := rfl
@[simp] theorem pc_countRead (s : State) (d : Reg) : (s.countRead d).pc = s.pc := rfl
@[simp] theorem flags_countRead (s : State) (d : Reg) : (s.countRead d).flags = s.flags := rfl
@[simp] theorem mem_countRead (s : State) (d : Reg) : (s.countRead d).mem = s.mem := rfl
@[simp] theorem status_countRead (s : State) (d : Reg) : (s.countRead d).status = s.status := rfl
@[simp] theorem config_countRead (s : State) (d : Reg) : (s.countRead d).config = s.config := rfl
@[simp] theorem reg_countWrite (s : State) (d : Reg) (r : Reg) : (s.countWrite d).reg r = s.reg r := rfl
@[simp] theorem pc_countWrite (s : State) (d : Reg) : (s.countWrite d).pc = s.pc := rfl
@[simp] theorem flags_countWrite (s : State) (d : Reg) : (s.countWrite d).flags = s.flags := rfl
@[simp] theorem mem_countWrite (s : State) (d : Reg) : (s.countWrite d).mem = s.mem := rfl
@[simp] theorem status_countWrite (s : State) (d : Reg) : (s.countWrite d).status = s.status := rfl
@[simp] theorem config_countWrite (s : State) (d : Reg) : (s.countWrite d).config = s.config := rfl
@[simp] theorem reg_countFlagRead (s : State) (r : Reg) : s.countFlagRead.reg r = s.reg r := rfl
@[simp] theorem pc_countFlagRead (s : State) : s.countFlagRead.pc = s.pc := rfl
@[simp] theorem flags_countFlagRead (s : State) : s.countFlagRead.flags = s.flags := rfl
@[simp] theorem mem_countFlagRead (s : State) : s.countFlagRead.mem = s.mem := rfl
@[simp] theorem status_countFlagRead (s : State) : s.countFlagRead.status = s.status := rfl
@[simp] theorem config_countFlagRead (s : State) : s.countFlagRead.config = s.config := rfl
@[simp] theorem reg_countFlagWrite (s : State) (r : Reg) : s.countFlagWrite.reg r = s.reg r := rfl
@[simp] theorem pc_countFlagWrite (s : State) : s.countFlagWrite.pc = s.pc := rfl
@[simp] theorem flags_countFlagWrite (s : State) : s.countFlagWrite.flags = s.flags := rfl
@[simp] theorem mem_countFlagWrite (s : State) : s.countFlagWrite.mem = s.mem := rfl
@[simp] theorem status_countFlagWrite (s : State) : s.countFlagWrite.status = s.status := rfl
@[simp] theorem config_countFlagWrite (s : State) : s.countFlagWrite.config = s.config := rfl
@[simp] theorem reg_countFamily (s : State) (fam : Family) (r : Reg) : (s.countFamily fam).reg r = s.reg r := by cases fam <;> rfl
@[simp] theorem pc_countFamily (s : State) (fam : Family) : (s.countFamily fam).pc = s.pc := by cases fam <;> rfl
@[simp] theorem flags_countFamily (s : State) (fam : Family) : (s.countFamily fam).flags = s.flags := by cases fam <;> rfl
@[simp] theorem mem_countFamily (s : State) (fam : Family) : (s.countFamily fam).mem = s.mem := by cases fam <;> rfl
@[simp] theorem status_countFamily (s : State) (fam : Family) : (s.countFamily fam).status = s.status := by cases fam <;> rfl
@[simp] theorem config_countFamily (s : State) (fam : Family) : (s.countFamily fam).config = s.config := by cases fam <;> rfl
@[simp] theorem flags_advance (s : State) : s.advance.flags = s.flags := rfl
@[simp] theorem mem_advance (s : State) : s.advance.mem = s.mem := rfl
@[simp] theorem telemetry_advance (s : State) : s.advance.telemetry = s.telemetry := rfl
@[simp] theorem status_advance (s : State) : s.advance.status = s.status := rfl
@[simp] theorem config_advance (s : State) : s.advance.config = s.config := rfl
@[simp] theorem flags_advanceCounted (s : State) : s.advanceCounted.flags = s.flags := rfl
@[simp] theorem mem_advanceCounted (s : State) : s.advanceCounted.mem = s.mem := rfl
@[simp] theorem status_advanceCounted (s : State) : s.advanceCounted.status = s.status := rfl
@[simp] theorem config_advanceCounted (s : State) : s.advanceCounted.config = s.config := rfl
@[simp] theorem reg_endFatal (s : State) (f : Fault) (r : Reg) : (s.endFatal f).reg r = s.reg r := rfl
@[simp] theorem pc_endFatal (s : State) (f : Fault) : (s.endFatal f).pc = s.pc := rfl
@[simp] theorem flags_endFatal (s : State) (f : Fault) : (s.endFatal f).flags = s.flags := rfl
@[simp] theorem mem_endFatal (s : State) (f : Fault) : (s.endFatal f).mem = s.mem := rfl
@[simp] theorem telemetry_endFatal (s : State) (f : Fault) : (s.endFatal f).telemetry = s.telemetry := rfl
@[simp] theorem config_endFatal (s : State) (f : Fault) : (s.endFatal f).config = s.config := rfl

@[simp] theorem pc_eq_reg (s : State) : s.reg Reg.pc = s.pc := rfl

/-! ### setMem -/

@[simp] theorem mem_setMem (s : State) (m : Memory) : (s.setMem m).mem = m := rfl
@[simp] theorem reg_setMem (s : State) (m : Memory) (r : Reg) : (s.setMem m).reg r = s.reg r := rfl
@[simp] theorem pc_setMem (s : State) (m : Memory) : (s.setMem m).pc = s.pc := rfl
@[simp] theorem flags_setMem (s : State) (m : Memory) : (s.setMem m).flags = s.flags := rfl
@[simp] theorem telemetry_setMem (s : State) (m : Memory) : (s.setMem m).telemetry = s.telemetry := rfl
@[simp] theorem status_setMem (s : State) (m : Memory) : (s.setMem m).status = s.status := rfl
@[simp] theorem config_setMem (s : State) (m : Memory) : (s.setMem m).config = s.config := rfl
@[simp] theorem reads_setMem (s : State) (m : Memory) (r : Reg) : (s.setMem m).reads r = s.reads r := rfl
@[simp] theorem writes_setMem (s : State) (m : Memory) (r : Reg) : (s.setMem m).writes r = s.writes r := rfl

end Sys2Proof.Machine
end

