-- ==== Sys2Proof/Laws/Memory.lean ====
section
/-! SUPPORT. The laws of memory: a read after a write, and the canonical form kept by every operation. -/

namespace Sys2Proof.Machine

/-! ### Reading after erasing, inserting, writing -/

theorem read_erase (m : Memory) (a b : Nat) :
    (m.erase a).read b = if b = a then unlistedByte b else m.read b := by
  induction m with
  | nil => simp [Memory.erase, Memory.read]
  | cons c m ih =>
    unfold Memory.erase at ih ⊢
    by_cases hc : c.1 = a
    · by_cases hb : b = a
      · simpa [List.filter_cons, hc, hb] using ih
      · have : ¬ a = b := fun h => hb h.symm
        simpa [List.filter_cons, hc, hb, this, Memory.read] using ih
    · by_cases hb : b = a
      · subst hb
        simpa [List.filter_cons, hc, Memory.read] using ih
      · simp only [hb, if_false] at ih ⊢
        rw [List.filter_cons_of_pos (by simpa using hc)]
        simp only [Memory.read, ih]

theorem read_insert (m : Memory) (a b : Nat) (v : Byte) (h : ∀ c ∈ m, c.1 ≠ a) :
    (m.insert (a, v)).read b = if b = a then v else m.read b := by
  induction m with
  | nil => simp [Memory.insert, Memory.read, eq_comm]
  | cons c m ih =>
    have hc : c.1 ≠ a := h c (by simp)
    have ih := ih fun d hd => h d (by simp [hd])
    unfold Memory.insert
    by_cases hlt : (a, v).1 < c.1
    · simp [hlt, Memory.read, eq_comm]
    · simp only [hlt, if_false, Memory.read, ih]
      by_cases hb : c.1 = b
      · have : ¬ b = a := fun e => hc (hb.trans e)
        simp [hb, this]
      · simp [hb]

theorem not_mem_erase (m : Memory) (a : Nat) : ∀ c ∈ m.erase a, c.1 ≠ a := by
  intro c hc
  simpa using (List.mem_filter.mp hc).2

/-- A read after a write: the value written at its address, what stood there at every other. -/
@[simp] theorem read_write (m : Memory) (a b : Nat) (v : Byte) :
    (m.write a v).read b = if b = a then v else m.read b := by
  unfold Memory.write
  split
  · next h => rw [read_erase]; split <;> simp_all
  · rw [read_insert _ _ _ _ (not_mem_erase m a), read_erase]; split <;> simp_all

/-! ### The canonical form -/

theorem wf_nil : Memory.wf [] := by simp [Memory.wf]

theorem wf_filter (m : Memory) (p : Host.Cell → Bool) (h : m.wf) : Memory.wf (m.filter p) :=
  ⟨h.1.filter p, fun c hc => h.2 c (List.mem_of_mem_filter hc)⟩

theorem wf_erase (m : Memory) (a : Nat) (h : m.wf) : (m.erase a).wf :=
  wf_filter m _ h

theorem mem_insert (m : Memory) (c d : Host.Cell) : d ∈ m.insert c ↔ d = c ∨ d ∈ m := by
  induction m with
  | nil => simp [Memory.insert]
  | cons e m ih =>
    unfold Memory.insert
    split
    · simp
    · simp [ih]; tauto

theorem pairwise_insert (m : Memory) (c : Host.Cell) (h : m.Pairwise (fun x y => x.1 < y.1))
    (hc : ∀ d ∈ m, d.1 ≠ c.1) : (m.insert c).Pairwise (fun x y => x.1 < y.1) := by
  induction m with
  | nil => simp [Memory.insert]
  | cons e m ih =>
    obtain ⟨he, hm⟩ := List.pairwise_cons.mp h
    unfold Memory.insert
    split
    · next hlt =>
      refine List.pairwise_cons.mpr ⟨fun d hd => ?_, h⟩
      rcases List.mem_cons.mp hd with rfl | hd
      · exact hlt
      · exact Nat.lt_trans hlt (he d hd)
    · next hge =>
      have hne : e.1 ≠ c.1 := hc e (by simp)
      refine List.pairwise_cons.mpr ⟨fun d hd => ?_, ih hm fun d hd => hc d (by simp [hd])⟩
      rcases (mem_insert m c d).mp hd with rfl | hd
      · omega
      · exact he d hd

/-- A write inside the address space keeps the canonical form. -/
theorem wf_write (m : Memory) (a : Nat) (v : Byte) (ha : a < 2 ^ 32) (h : m.wf) : (m.write a v).wf := by
  unfold Memory.write
  have he := wf_erase m a h
  split
  · exact he
  · next hv =>
    refine ⟨pairwise_insert _ _ he.1 (not_mem_erase m a), fun c hc => ?_⟩
    rcases (mem_insert _ _ c).mp hc with rfl | hc
    · exact ⟨ha, hv⟩
    · exact he.2 c hc

/-- A word store keeps the canonical form. -/
theorem wf_writeWord (m : Memory) (a v : Word) (h : m.wf) : (m.writeWord a v).wf := by
  unfold Memory.writeWord
  exact wf_write _ _ _ (BitVec.isLt _) (wf_write _ _ _ (BitVec.isLt _)
    (wf_write _ _ _ (BitVec.isLt _) (wf_write _ _ _ (BitVec.isLt _) h)))

/-! ### Words -/

/-- What a byte reads as after a word store: the store's byte at its four addresses, the old byte elsewhere. -/
theorem read_writeWord (m : Memory) (a v b : Word) :
    (m.writeWord a v).read b.toNat =
      if b = a + 3#32 then byteOfWord v 3 else if b = a + 2#32 then byteOfWord v 2
      else if b = a + 1#32 then byteOfWord v 1 else if b = a then byteOfWord v 0 else m.read b.toNat := by
  simp only [Memory.writeWord, read_write, BitVec.toNat_inj]

/-- A concatenation as a number. -/
theorem toNat_append_add {m n : Nat} (x : BitVec m) (y : BitVec n) :
    (x ++ y).toNat = x.toNat * 2 ^ n + y.toNat := by
  rw [BitVec.toNat_append, ← Nat.shiftLeft_add_eq_or_of_lt y.isLt, Nat.shiftLeft_eq]

/-- A field as a number. -/
theorem toNat_field {n : Nat} (w : BitVec n) (lo len : Nat) :
    (w.extractLsb' lo len).toNat = w.toNat / 2 ^ lo % 2 ^ len := by
  rw [BitVec.extractLsb'_toNat, Nat.shiftRight_eq_div_pow]

/-- The word of four bytes is little-endian (R52). -/
theorem toNat_wordOfBytes (b0 b1 b2 b3 : Byte) :
    (wordOfBytes b0 b1 b2 b3).toNat =
      b0.toNat + 2 ^ 8 * b1.toNat + 2 ^ 16 * b2.toNat + 2 ^ 24 * b3.toNat := by
  simp only [wordOfBytes, toNat_append_add]
  omega

/-- The four bytes of a word put together again are the word. -/
theorem wordOfBytes_byteOfWord (v : Word) :
    wordOfBytes (byteOfWord v 0) (byteOfWord v 1) (byteOfWord v 2) (byteOfWord v 3) = v := by
  apply BitVec.eq_of_toNat_eq
  have := v.isLt
  simp only [toNat_wordOfBytes, byteOfWord, toNat_field]
  omega

/-- A word read where a word was stored is that word (R61). -/
theorem wordAt_writeWord (s : State) (m : Memory) (a v : Word) (h : s.mem = m.writeWord a v) : s.wordAt a = v := by
  have e1 : a + 1#32 ≠ a := by bv_omega
  have e2 : a + 2#32 ≠ a := by bv_omega
  have e3 : a + 3#32 ≠ a := by bv_omega
  have e4 : a + 2#32 ≠ a + 1#32 := by bv_omega
  have e5 : a + 3#32 ≠ a + 1#32 := by bv_omega
  have e6 : a + 3#32 ≠ a + 2#32 := by bv_omega
  simp only [State.wordAt, State.byteAt, h, read_writeWord, e1, e2, e3, e4, e5, e6, e1.symm, e2.symm, e3.symm,
    e4.symm, e5.symm, e6.symm, if_true, if_false]
  exact wordOfBytes_byteOfWord v

/-- The word at an address depends on memory alone. -/
theorem wordAt_congr {s t : State} (h : s.mem = t.mem) (a : Word) : s.wordAt a = t.wordAt a := by
  simp only [State.wordAt, State.byteAt, h]

/-- The byte at an address depends on memory alone. -/
theorem byteAt_congr {s t : State} (h : s.mem = t.mem) (a : Word) : s.byteAt a = t.byteAt a := by
  simp only [State.byteAt, h]

/-- Dropping the cells a test of the address rejects: those addresses read as unlisted, the others as before. -/
theorem read_filter (m : Memory) (p : Nat → Bool) (a : Nat) :
    Memory.read (m.filter fun c => p c.1) a = if p a then m.read a else unlistedByte a := by
  induction m with
  | nil => simp [Memory.read]
  | cons c m ih =>
    by_cases hc : p c.1
    · rw [List.filter_cons_of_pos (p := fun d : Host.Cell => p d.1) hc]
      simp only [Memory.read, ih]
      by_cases h : c.1 = a
      · subst h; simp [hc]
      · simp [h]
    · rw [List.filter_cons_of_neg (p := fun d : Host.Cell => p d.1) hc, ih]
      by_cases h : c.1 = a
      · subst h; simp [hc]
      · simp [Memory.read, h]

end Sys2Proof.Machine
end

