-- ==== Sys2Proof/Laws/Decode.lean ====
section
/-! SUPPORT. The classifier, the decoder and the encoder in numbers: each test and each field of a word as a division and a
remainder, each encoding as a sum, so that facts about them are linear arithmetic. -/

namespace Sys2Proof

open Sys2Proof.Machine

/-! ### Fields -/

theorem toNat_nibble (w : Word) (lo : Nat) : (nibble w lo).toNat = w.toNat / 2 ^ lo % 16 :=
  toNat_field w lo 4

theorem bitOf_eq (w : Word) (i : Nat) : bitOf w i = decide (w.toNat / 2 ^ i % 2 = 1) := by
  rw [bitOf, ← BitVec.testBit_toNat, Nat.testBit_eq_decide_div_mod_eq]

theorem toNat_bit (x : Bool) : (bit x).toNat = x.toNat := by
  cases x <;> rfl

theorem ofBits_bits (c : ShiftCode) : ShiftCode.ofBits c.bits = c := by
  cases c <;> rfl

theorem bits_ofBits (b : BitVec 2) : (ShiftCode.ofBits b).bits = b := by
  revert b; decide

/-! ### The classifier's tests -/

/-- The first test under a reading of the mask (R77, R79), in numbers. -/
def branchPattern (m : BClassMask) (n : Nat) : Prop :=
  match m with
  | .m111 => n / 2 ^ 25 % 8 = 5
  | .m101 => n / 2 ^ 27 % 2 = 1 ∧ n / 2 ^ 25 % 2 = 1

theorem and_five (x : Nat) (h : x < 128) : x &&& 5 = 5 ↔ x / 4 % 2 = 1 ∧ x % 2 = 1 := by
  have : ∀ x < 128, (x &&& 5 = 5 ↔ x / 4 % 2 = 1 ∧ x % 2 = 1) := by decide
  exact this x h

theorem branchTest_iff (m : BClassMask) (w : Word) :
    (w >>> 25) &&& m.bits = 0b101#32 ↔ branchPattern m w.toNat := by
  have hw := w.isLt
  cases m
  · rw [← BitVec.toNat_inj, BitVec.toNat_and, BitVec.toNat_ushiftRight, Nat.shiftRight_eq_div_pow]
    show w.toNat / 2 ^ 25 &&& (2 ^ 3 - 1) = 5 ↔ w.toNat / 2 ^ 25 % 8 = 5
    rw [Nat.and_two_pow_sub_one_eq_mod]
  · rw [← BitVec.toNat_inj, BitVec.toNat_and, BitVec.toNat_ushiftRight, Nat.shiftRight_eq_div_pow]
    show w.toNat / 2 ^ 25 &&& 5 = 5 ↔ w.toNat / 2 ^ 27 % 2 = 1 ∧ w.toNat / 2 ^ 25 % 2 = 1
    rw [and_five _ (by omega)]
    omega

theorem sdtTest_iff (w : Word) : w.extractLsb' 26 2 = 0b01#2 ↔ w.toNat / 2 ^ 26 % 4 = 1 := by
  rw [← BitVec.toNat_inj, toNat_field]
  exact Iff.rfl

theorem bxTest_iff (w : Word) :
    (w >>> 4) &&& 0xFFFFFF#32 = 0x12FFF1#32 ↔ w.toNat / 2 ^ 4 % 2 ^ 24 = 0x12FFF1 := by
  rw [← BitVec.toNat_inj, BitVec.toNat_and, BitVec.toNat_ushiftRight, Nat.shiftRight_eq_div_pow]
  show w.toNat / 2 ^ 4 &&& (2 ^ 24 - 1) = 0x12FFF1 ↔ _
  rw [Nat.and_two_pow_sub_one_eq_mod]

theorem mulTest_iff (w : Word) :
    (w.extractLsb' 22 6 = 0#6 ∧ w.extractLsb' 4 4 = 0b1001#4) ↔
      w.toNat / 2 ^ 22 % 64 = 0 ∧ w.toNat / 2 ^ 4 % 16 = 9 := by
  rw [← BitVec.toNat_inj, ← BitVec.toNat_inj, toNat_field, toNat_field]
  exact Iff.rfl

/-- The last test is true of every word (R78). -/
theorem dpTest_true (w : Word) : w &&& 0#32 = 0#32 := BitVec.and_zero

/-- The classifier's order (R77) with its tests in numbers. -/
theorem classify_eq (m : BClassMask) (w : Word) [Decidable (branchPattern m w.toNat)] :
    classify m w =
      if branchPattern m w.toNat then some .branch
      else if w.toNat / 2 ^ 26 % 4 = 1 then some .singleDataTransfer
      else if w.toNat / 2 ^ 4 % 2 ^ 24 = 0x12FFF1 then some .branchExchange
      else if w.toNat / 2 ^ 22 % 64 = 0 ∧ w.toNat / 2 ^ 4 % 16 = 9 then some .multiply
      else some .dataProcessing := by
  simp only [classify, branchTest_iff, sdtTest_iff, bxTest_iff, mulTest_iff, dpTest_true, if_true]

/-! ### The encodings as sums -/

theorem toNat_encodeShiftedReg (r : ShiftedReg) :
    (encodeShiftedReg r).toNat =
      match r.amount with
      | .imm amt => amt.toNat * 2 ^ 7 + r.code.bits.toNat * 2 ^ 5 + r.rm.toNat
      | .reg rs b7 => rs.toNat * 2 ^ 8 + b7.toNat * 2 ^ 7 + r.code.bits.toNat * 2 ^ 5 + 2 ^ 4 + r.rm.toNat := by
  unfold encodeShiftedReg
  cases r.amount <;> simp only [toNat_append_add, toNat_bit, BitVec.toNat_ofNat] <;> omega

theorem toNat_encodeDp (op : BitVec 4) (f : DpFields) :
    (encodeDp op f).toNat =
      f.cond.toNat * 2 ^ 28 + f.cls.toNat * 2 ^ 26 + f.op2.isImm.toNat * 2 ^ 25 + op.toNat * 2 ^ 21 +
        f.s.toNat * 2 ^ 20 + f.rn.toNat * 2 ^ 16 + f.rd.toNat * 2 ^ 12 + (encodeOperand2 f.op2).toNat := by
  simp only [encodeDp, toNat_append_add, toNat_bit]; omega

theorem toNat_encodeMul (f : MulFields) :
    (encodeMul f).toNat =
      f.cond.toNat * 2 ^ 28 + f.a.toNat * 2 ^ 21 + f.s.toNat * 2 ^ 20 + f.rd.toNat * 2 ^ 16 + f.rn.toNat * 2 ^ 12 +
        f.rs.toNat * 2 ^ 8 + 9 * 2 ^ 4 + f.rm.toNat := by
  simp only [encodeMul, toNat_append_add, toNat_bit, BitVec.toNat_ofNat]; omega

theorem toNat_encodeBx (f : BxFields) :
    (encodeBx f).toNat = f.cond.toNat * 2 ^ 28 + 0x12FFF1 * 2 ^ 4 + f.rm.toNat := by
  simp only [encodeBx, toNat_append_add, BitVec.toNat_ofNat]; omega

theorem toNat_encodeSdt (l : Bool) (f : SdtFields) :
    (encodeSdt l f).toNat =
      f.cond.toNat * 2 ^ 28 + 2 ^ 26 + f.offset.isReg.toNat * 2 ^ 25 + f.p.toNat * 2 ^ 24 + f.u.toNat * 2 ^ 23 +
        f.b.toNat * 2 ^ 22 + f.w.toNat * 2 ^ 21 + l.toNat * 2 ^ 20 + f.rn.toNat * 2 ^ 16 + f.rd.toNat * 2 ^ 12 +
        (encodeSdtOffset f.offset).toNat := by
  simp only [encodeSdt, toNat_append_add, toNat_bit, BitVec.toNat_ofNat]; omega

theorem toNat_encodeBranch (l : Bool) (f : BranchFields) :
    (encodeBranch l f).toNat =
      f.cond.toNat * 2 ^ 28 + 2 ^ 27 + f.bit26.toNat * 2 ^ 26 + 2 ^ 25 + l.toNat * 2 ^ 24 + f.imm24.toNat := by
  simp only [encodeBranch, toNat_append_add, toNat_bit, BitVec.toNat_ofNat]; omega

/-- The unit of the instruction a family's word decodes to is that family's (R93). -/
theorem familyOf_decodeFamily (fam : Family) (w : Word) : familyOf (decodeFamily fam w) = fam := by
  cases fam <;> simp only [decodeFamily]
  · split <;> rfl
  · split <;> rfl
  · rfl
  · rfl
  · unfold dpInstr; split <;> rfl

end Sys2Proof
end

