-- ==== Sys2Proof/Laws/Encoding.lean ====
section
/-! SUPPORT. What the classifier makes of each format's encoding, and the fields the decoder reads back from it. -/

namespace Sys2Proof

open Sys2Proof.Machine

theorem toNat_bool_le (b : Bool) : b.toNat ≤ 1 := by cases b <;> decide

/-! ### The classifier on encodings -/

theorem classify_encodeBranch (m : BClassMask) (l : Bool) (f : BranchFields) (h : f.wf m = true) :
    classify m (encodeBranch l f) = some .branch := by
  have hp : branchPattern m (encodeBranch l f).toNat := by
    have h1 := f.cond.isLt
    have h2 := f.imm24.isLt
    have h3 := toNat_bool_le l
    rw [toNat_encodeBranch]
    cases m
    · have : f.bit26 = false := by simpa [BranchFields.wf] using h
      simp only [branchPattern, this, Bool.toNat_false]
      omega
    · have h4 := toNat_bool_le f.bit26
      simp only [branchPattern]
      omega
  simp only [classify, (branchTest_iff m _).mpr hp, if_true]

theorem classify_encodeSdt (m : BClassMask) (l : Bool) (f : SdtFields) :
    classify m (encodeSdt l f) = some .singleDataTransfer := by
  have h1 := f.cond.isLt
  have h2 := f.rn.isLt
  have h3 := f.rd.isLt
  have h4 := (encodeSdtOffset f.offset).isLt
  have b1 := toNat_bool_le f.offset.isReg
  have b2 := toNat_bool_le f.p
  have b3 := toNat_bool_le f.u
  have b4 := toNat_bool_le f.b
  have b5 := toNat_bool_le f.w
  have b6 := toNat_bool_le l
  have hp : ¬ branchPattern m (encodeSdt l f).toNat := by
    rw [toNat_encodeSdt]
    cases m <;> simp only [branchPattern] <;> omega
  have hs : (encodeSdt l f).toNat / 2 ^ 26 % 4 = 1 := by
    rw [toNat_encodeSdt]; omega
  classical
  rw [classify_eq, if_neg hp, if_pos hs]

theorem classify_encodeBx (m : BClassMask) (f : BxFields) : classify m (encodeBx f) = some .branchExchange := by
  have h1 := f.cond.isLt
  have h2 := f.rm.isLt
  have hp : ¬ branchPattern m (encodeBx f).toNat := by
    rw [toNat_encodeBx]
    cases m <;> simp only [branchPattern] <;> omega
  have hs : ¬ (encodeBx f).toNat / 2 ^ 26 % 4 = 1 := by
    rw [toNat_encodeBx]; omega
  have hx : (encodeBx f).toNat / 2 ^ 4 % 2 ^ 24 = 0x12FFF1 := by
    rw [toNat_encodeBx]; omega
  classical
  rw [classify_eq, if_neg hp, if_neg hs, if_pos hx]

theorem classify_encodeMul (m : BClassMask) (f : MulFields) : classify m (encodeMul f) = some .multiply := by
  have h1 := f.cond.isLt
  have h2 := f.rd.isLt
  have h3 := f.rn.isLt
  have h4 := f.rs.isLt
  have h5 := f.rm.isLt
  have b1 := toNat_bool_le f.a
  have b2 := toNat_bool_le f.s
  have hp : ¬ branchPattern m (encodeMul f).toNat := by
    rw [toNat_encodeMul]
    cases m <;> simp only [branchPattern] <;> omega
  have hs : ¬ (encodeMul f).toNat / 2 ^ 26 % 4 = 1 := by
    rw [toNat_encodeMul]; omega
  have hx : ¬ (encodeMul f).toNat / 2 ^ 4 % 2 ^ 24 = 0x12FFF1 := by
    rw [toNat_encodeMul]; omega
  have hm : (encodeMul f).toNat / 2 ^ 22 % 64 = 0 ∧ (encodeMul f).toNat / 2 ^ 4 % 16 = 9 := by
    rw [toNat_encodeMul]; constructor <;> omega
  classical
  rw [classify_eq, if_neg hp, if_neg hs, if_neg hx, if_pos hm]

theorem cls_ne_of_notSdt (f : DpFields) (h : f.notSdt = true) : f.cls.toNat ≠ 1 := by
  intro e
  have : f.cls = 1#2 := BitVec.eq_of_toNat_eq e
  simp [DpFields.notSdt, this] at h

theorem not_branchPattern_encodeDp (m : BClassMask) (op : BitVec 4) (f : DpFields) (h : f.notBranch m = true) :
    ¬ branchPattern m (encodeDp op f).toNat := by
  have h1 := f.cond.isLt
  have h2 := f.rn.isLt
  have h3 := f.rd.isLt
  have h4 := (encodeOperand2 f.op2).isLt
  have h5 := op.isLt
  have h6 := f.cls.isLt
  have b1 := toNat_bool_le f.op2.isImm
  have b2 := toNat_bool_le f.s
  rw [toNat_encodeDp]
  cases hi : f.op2.isImm
  · cases m <;> simp only [branchPattern, hi, Bool.toNat_false] at b1 ⊢ <;> omega
  · have c2 : f.cls.toNat = 2 → f.cls = 2#2 := fun e => BitVec.eq_of_toNat_eq e
    have c3 : f.cls.toNat = 3 → f.cls = 3#2 := fun e => BitVec.eq_of_toNat_eq e
    cases m
    · have : f.cls.toNat ≠ 2 := fun e => by simp [DpFields.notBranch, hi, c2 e] at h
      simp only [branchPattern, Bool.toNat_true]; omega
    · have n2 : f.cls.toNat ≠ 2 := fun e => by simp [DpFields.notBranch, hi, c2 e] at h
      have n3 : f.cls.toNat ≠ 3 := fun e => by simp [DpFields.notBranch, hi, c3 e] at h
      simp only [branchPattern, Bool.toNat_true]; omega

/-- A Data Processing word whose `w[27:4]` is the Branch-and-Exchange pattern is a TEQ with the fields `notBx` excludes. -/
theorem not_bxPattern_encodeDp (op : BitVec 4) (f : DpFields) (h : op = 9#4 → f.notBx = true) :
    ¬ (encodeDp op f).toNat / 2 ^ 4 % 2 ^ 24 = 0x12FFF1 := by
  intro e
  have h1 := f.cond.isLt
  have h2 := f.rn.isLt
  have h3 := f.rd.isLt
  have h4 := (encodeOperand2 f.op2).isLt
  have h5 := op.isLt
  have h6 := f.cls.isLt
  have b1 := toNat_bool_le f.op2.isImm
  have b2 := toNat_bool_le f.s
  rw [toNat_encodeDp] at e
  have ecls : f.cls = 0#2 := BitVec.eq_of_toNat_eq (by show f.cls.toNat = 0; omega)
  have eop : op = 9#4 := BitVec.eq_of_toNat_eq (by show op.toNat = 9; omega)
  have ern : f.rn = 15#4 := BitVec.eq_of_toNat_eq (by show f.rn.toNat = 15; omega)
  have erd : f.rd = 15#4 := BitVec.eq_of_toNat_eq (by show f.rd.toNat = 15; omega)
  have es : f.s = false := by
    cases hs : f.s
    · rfl
    · rw [hs] at e; simp only [Bool.toNat_true] at e; omega
  have ei : f.op2.isImm.toNat = 0 := by omega
  have e12 : (encodeOperand2 f.op2).toNat / 2 ^ 4 = 0xF1 := by omega
  have hbx := h eop
  cases ho : f.op2 with
  | imm r i => rw [ho] at ei; simp [Operand2.isImm] at ei
  | reg r =>
    rw [ho] at e12
    obtain ⟨rm, code, am⟩ := r
    have g1 := rm.isLt
    have g2 := code.bits.isLt
    cases am with
    | imm amt =>
      have g3 := amt.isLt
      simp only [encodeOperand2, toNat_encodeShiftedReg] at e12
      omega
    | reg rs b7 =>
      have g3 := rs.isLt
      have g4 := toNat_bool_le b7
      simp only [encodeOperand2, toNat_encodeShiftedReg] at e12
      have ers : rs = 15#4 := BitVec.eq_of_toNat_eq (by show rs.toNat = 15; omega)
      have eb : b7 = false := by
        cases b7
        · rfl
        · simp only [Bool.toNat_true] at e12; omega
      have ec : code = .lsl := by
        have : code.bits.toNat = 0 := by omega
        cases code
        · rfl
        all_goals simp [ShiftCode.bits] at this
      subst ec eb ers
      simp [DpFields.notBx, ho, ecls, ern, erd, es] at hbx

/-- A Data Processing word with the Multiply pattern is an AND or an EOR with the fields `notMul` excludes. -/
theorem not_mulPattern_encodeDp (op : BitVec 4) (f : DpFields) (h : op = 0#4 ∨ op = 1#4 → f.notMul = true) :
    ¬ ((encodeDp op f).toNat / 2 ^ 22 % 64 = 0 ∧ (encodeDp op f).toNat / 2 ^ 4 % 16 = 9) := by
  rintro ⟨e, e'⟩
  have h1 := f.cond.isLt
  have h2 := f.rn.isLt
  have h3 := f.rd.isLt
  have h4 := (encodeOperand2 f.op2).isLt
  have h5 := op.isLt
  have h6 := f.cls.isLt
  have b1 := toNat_bool_le f.op2.isImm
  have b2 := toNat_bool_le f.s
  rw [toNat_encodeDp] at e e'
  have ecls : f.cls = 0#2 := BitVec.eq_of_toNat_eq (by show f.cls.toNat = 0; omega)
  have eop : op = 0#4 ∨ op = 1#4 := by
    have : op.toNat = 0 ∨ op.toNat = 1 := by omega
    exact this.imp (fun e => BitVec.eq_of_toNat_eq e) (fun e => BitVec.eq_of_toNat_eq e)
  have ei : f.op2.isImm.toNat = 0 := by omega
  have e12 : (encodeOperand2 f.op2).toNat / 2 ^ 4 % 16 = 9 := by omega
  have hm := h eop
  cases ho : f.op2 with
  | imm r i => rw [ho] at ei; simp [Operand2.isImm] at ei
  | reg r =>
    rw [ho] at e12
    obtain ⟨rm, code, am⟩ := r
    have g1 := rm.isLt
    have g2 := code.bits.isLt
    cases am with
    | imm amt =>
      have g3 := amt.isLt
      simp only [encodeOperand2, toNat_encodeShiftedReg] at e12
      omega
    | reg rs b7 =>
      have g3 := rs.isLt
      have g4 := toNat_bool_le b7
      simp only [encodeOperand2, toNat_encodeShiftedReg] at e12
      have eb : b7 = true := by
        cases b7
        · simp only [Bool.toNat_false] at e12; omega
        · rfl
      have ec : code = .lsl := by
        have : code.bits.toNat = 0 := by omega
        cases code
        · rfl
        all_goals simp [ShiftCode.bits] at this
      subst ec eb
      simp [DpFields.notMul, ho, ecls] at hm

theorem classify_encodeDp (m : BClassMask) (op : BitVec 4) (f : DpFields) (h : f.wf m = true)
    (hbx : op = 9#4 → f.notBx = true) (hmul : op = 0#4 ∨ op = 1#4 → f.notMul = true) :
    classify m (encodeDp op f) = some .dataProcessing := by
  obtain ⟨hb, hs⟩ := Bool.and_eq_true_iff.mp h
  have h1 := f.cond.isLt
  have h2 := f.rn.isLt
  have h3 := f.rd.isLt
  have h4 := (encodeOperand2 f.op2).isLt
  have h5 := op.isLt
  have h6 := f.cls.isLt
  have b1 := toNat_bool_le f.op2.isImm
  have b2 := toNat_bool_le f.s
  have ns : ¬ (encodeDp op f).toNat / 2 ^ 26 % 4 = 1 := by
    have := cls_ne_of_notSdt f hs
    rw [toNat_encodeDp]; omega
  classical
  rw [classify_eq, if_neg (not_branchPattern_encodeDp m op f hb), if_neg ns, if_neg (not_bxPattern_encodeDp op f hbx),
    if_neg (not_mulPattern_encodeDp op f hmul)]

/-! ### The fields read back from an encoding -/

theorem bitOf_of {w : Word} {i : Nat} {b : Bool} (h : w.toNat / 2 ^ i % 2 = b.toNat) : bitOf w i = b := by
  rw [bitOf_eq, h]; cases b <;> rfl

theorem nibble_of {w : Word} {lo : Nat} {r : BitVec 4} (h : w.toNat / 2 ^ lo % 16 = r.toNat) : nibble w lo = r :=
  BitVec.eq_of_toNat_eq (by rw [toNat_nibble, h])

theorem field_of {w : Word} {lo len : Nat} {r : BitVec len} (h : w.toNat / 2 ^ lo % 2 ^ len = r.toNat) :
    w.extractLsb' lo len = r :=
  BitVec.eq_of_toNat_eq (by rw [toNat_field, h])

/-- The register form is read back from any word whose low 12 bits are its encoding. -/
theorem decodeShiftedReg_of (w : Word) (r : ShiftedReg) (h : w.toNat % 2 ^ 12 = (encodeShiftedReg r).toNat) :
    decodeShiftedReg w = r := by
  obtain ⟨rm, code, am⟩ := r
  have g1 := rm.isLt
  have g2 := code.bits.isLt
  rw [toNat_encodeShiftedReg] at h
  cases am with
  | imm amt =>
    have g3 := amt.isLt
    simp only at h
    have e4 : bitOf w 4 = false := bitOf_of (by simp only [Bool.toNat_false]; omega)
    simp only [decodeShiftedReg, e4]
    rw [nibble_of (r := rm) (by omega), field_of (r := code.bits) (by omega), field_of (r := amt) (by omega), ofBits_bits]
    rfl
  | reg rs b7 =>
    have g3 := rs.isLt
    have g4 := toNat_bool_le b7
    simp only at h
    have e4 : bitOf w 4 = true := bitOf_of (by simp only [Bool.toNat_true]; omega)
    simp only [decodeShiftedReg, e4, if_true]
    rw [nibble_of (r := rm) (by omega), field_of (r := code.bits) (by omega), nibble_of (r := rs) (by omega),
      bitOf_of (b := b7) (by omega), ofBits_bits]

theorem decodeOperand2_of (w : Word) (o : Operand2) (hi : w.toNat / 2 ^ 25 % 2 = o.isImm.toNat)
    (h : w.toNat % 2 ^ 12 = (encodeOperand2 o).toNat) : decodeOperand2 w = o := by
  cases o with
  | imm r i =>
    have g1 := r.isLt
    have g2 := i.isLt
    simp only [encodeOperand2, toNat_append_add] at h
    simp only [decodeOperand2, bitOf_of (b := true) hi, if_true]
    rw [nibble_of (r := r) (by omega), field_of (r := i) (by omega)]
  | reg r =>
    simp only [decodeOperand2, bitOf_of (b := false) hi, decodeShiftedReg_of w r h]
    rfl

theorem decodeSdtOffset_of (w : Word) (o : SdtOffset) (hi : w.toNat / 2 ^ 25 % 2 = o.isReg.toNat)
    (h : w.toNat % 2 ^ 12 = (encodeSdtOffset o).toNat) : decodeSdtOffset w = o := by
  cases o with
  | imm i =>
    have g1 := i.isLt
    simp only [encodeSdtOffset] at h
    simp only [decodeSdtOffset, bitOf_of (b := false) hi]
    rw [field_of (r := i) (by omega)]
    rfl
  | reg r =>
    simp only [decodeSdtOffset, bitOf_of (b := true) hi, decodeShiftedReg_of w r h, if_true]

theorem decodeDpFields_encodeDp (op : BitVec 4) (f : DpFields) : decodeDpFields (encodeDp op f) = f := by
  have h1 := f.cond.isLt
  have h2 := f.rn.isLt
  have h3 := f.rd.isLt
  have h4 := (encodeOperand2 f.op2).isLt
  have h5 := op.isLt
  have h6 := f.cls.isLt
  have b1 := toNat_bool_le f.op2.isImm
  have b2 := toNat_bool_le f.s
  have e := toNat_encodeDp op f
  simp only [decodeDpFields]
  rw [nibble_of (r := f.cond) (by omega), field_of (r := f.cls) (by omega), bitOf_of (b := f.s) (by omega),
    nibble_of (r := f.rn) (by omega), nibble_of (r := f.rd) (by omega), decodeOperand2_of _ f.op2 (by omega) (by omega)]

theorem opcode_encodeDp (op : BitVec 4) (f : DpFields) : nibble (encodeDp op f) 21 = op := by
  have h1 := f.cond.isLt
  have h2 := f.rn.isLt
  have h3 := f.rd.isLt
  have h4 := (encodeOperand2 f.op2).isLt
  have h5 := op.isLt
  have h6 := f.cls.isLt
  have b1 := toNat_bool_le f.op2.isImm
  have b2 := toNat_bool_le f.s
  have e := toNat_encodeDp op f
  exact nibble_of (by omega)

theorem decodeMulFields_encodeMul (f : MulFields) : decodeMulFields (encodeMul f) = f := by
  have h1 := f.cond.isLt
  have h2 := f.rd.isLt
  have h3 := f.rn.isLt
  have h4 := f.rs.isLt
  have h5 := f.rm.isLt
  have b1 := toNat_bool_le f.a
  have b2 := toNat_bool_le f.s
  have e := toNat_encodeMul f
  simp only [decodeMulFields]
  rw [nibble_of (r := f.cond) (by omega), bitOf_of (b := f.a) (by omega), bitOf_of (b := f.s) (by omega),
    nibble_of (r := f.rd) (by omega), nibble_of (r := f.rn) (by omega), nibble_of (r := f.rs) (by omega),
    nibble_of (r := f.rm) (by omega)]

theorem decodeBxFields_encodeBx (f : BxFields) : decodeBxFields (encodeBx f) = f := by
  have h1 := f.cond.isLt
  have h2 := f.rm.isLt
  have e := toNat_encodeBx f
  simp only [decodeBxFields]
  rw [nibble_of (r := f.cond) (by omega), nibble_of (r := f.rm) (by omega)]

theorem decodeSdtFields_encodeSdt (l : Bool) (f : SdtFields) : decodeSdtFields (encodeSdt l f) = f := by
  have h1 := f.cond.isLt
  have h2 := f.rn.isLt
  have h3 := f.rd.isLt
  have h4 := (encodeSdtOffset f.offset).isLt
  have b1 := toNat_bool_le f.offset.isReg
  have b2 := toNat_bool_le f.p
  have b3 := toNat_bool_le f.u
  have b4 := toNat_bool_le f.b
  have b5 := toNat_bool_le f.w
  have b6 := toNat_bool_le l
  have e := toNat_encodeSdt l f
  simp only [decodeSdtFields]
  rw [nibble_of (r := f.cond) (by omega), bitOf_of (b := f.p) (by omega), bitOf_of (b := f.u) (by omega),
    bitOf_of (b := f.b) (by omega), bitOf_of (b := f.w) (by omega), nibble_of (r := f.rn) (by omega),
    nibble_of (r := f.rd) (by omega), decodeSdtOffset_of _ f.offset (by omega) (by omega)]

theorem loadBit_encodeSdt (l : Bool) (f : SdtFields) : bitOf (encodeSdt l f) 20 = l := by
  have h1 := f.cond.isLt
  have h2 := f.rn.isLt
  have h3 := f.rd.isLt
  have h4 := (encodeSdtOffset f.offset).isLt
  have b1 := toNat_bool_le f.offset.isReg
  have b2 := toNat_bool_le f.p
  have b3 := toNat_bool_le f.u
  have b4 := toNat_bool_le f.b
  have b5 := toNat_bool_le f.w
  have b6 := toNat_bool_le l
  have e := toNat_encodeSdt l f
  exact bitOf_of (by omega)

theorem decodeBranchFields_encodeBranch (l : Bool) (f : BranchFields) : decodeBranchFields (encodeBranch l f) = f := by
  have h1 := f.cond.isLt
  have h2 := f.imm24.isLt
  have b1 := toNat_bool_le l
  have b2 := toNat_bool_le f.bit26
  have e := toNat_encodeBranch l f
  simp only [decodeBranchFields]
  rw [nibble_of (r := f.cond) (by omega), bitOf_of (b := f.bit26) (by omega), field_of (r := f.imm24) (by omega)]

theorem linkBit_encodeBranch (l : Bool) (f : BranchFields) : bitOf (encodeBranch l f) 24 = l := by
  have h1 := f.cond.isLt
  have h2 := f.imm24.isLt
  have b1 := toNat_bool_le l
  have b2 := toNat_bool_le f.bit26
  have e := toNat_encodeBranch l f
  exact bitOf_of (by omega)

/-! ### The word put together again from its fields -/

theorem toNat_bitOf (w : Word) (i : Nat) : (bitOf w i).toNat = w.toNat / 2 ^ i % 2 := by
  rw [bitOf_eq]
  have : w.toNat / 2 ^ i % 2 < 2 := Nat.mod_lt _ (by decide)
  by_cases h : w.toNat / 2 ^ i % 2 = 1
  · simp [h]
  · have h0 : w.toNat / 2 ^ i % 2 = 0 := by omega
    simp [h0]

theorem encodeShiftedReg_decode (w : Word) : (encodeShiftedReg (decodeShiftedReg w)).toNat = w.toNat % 2 ^ 12 := by
  rw [toNat_encodeShiftedReg]
  simp only [decodeShiftedReg, bits_ofBits]
  have h4 := toNat_bitOf w 4
  cases hb : bitOf w 4
  · rw [hb] at h4
    simp only [Bool.toNat_false, toNat_field, toNat_nibble, Bool.false_eq_true, if_false] at h4 ⊢
    omega
  · rw [hb] at h4
    simp only [Bool.toNat_true, toNat_field, toNat_nibble, toNat_bitOf, if_true] at h4 ⊢
    omega

theorem encodeOperand2_decode (w : Word) : (encodeOperand2 (decodeOperand2 w)).toNat = w.toNat % 2 ^ 12 := by
  unfold decodeOperand2
  split
  · simp only [encodeOperand2, toNat_append_add, toNat_nibble, toNat_field]; omega
  · exact encodeShiftedReg_decode w

theorem isImm_decodeOperand2 (w : Word) : (decodeOperand2 w).isImm = bitOf w 25 := by
  unfold decodeOperand2
  split <;> simp_all [Operand2.isImm]

theorem encodeSdtOffset_decode (w : Word) : (encodeSdtOffset (decodeSdtOffset w)).toNat = w.toNat % 2 ^ 12 := by
  unfold decodeSdtOffset
  split
  · exact encodeShiftedReg_decode w
  · simp only [encodeSdtOffset, toNat_field]; omega

theorem isReg_decodeSdtOffset (w : Word) : (decodeSdtOffset w).isReg = bitOf w 25 := by
  unfold decodeSdtOffset
  split <;> simp_all [SdtOffset.isReg]

theorem encodeDp_decode (w : Word) : encodeDp (nibble w 21) (decodeDpFields w) = w := by
  apply BitVec.eq_of_toNat_eq
  have := w.isLt
  rw [toNat_encodeDp]
  simp only [decodeDpFields, toNat_nibble, toNat_field, toNat_bitOf, isImm_decodeOperand2, encodeOperand2_decode]
  omega

theorem encodeMul_decode (w : Word) (h : w.toNat / 2 ^ 22 % 64 = 0 ∧ w.toNat / 2 ^ 4 % 16 = 9) :
    encodeMul (decodeMulFields w) = w := by
  apply BitVec.eq_of_toNat_eq
  have := w.isLt
  rw [toNat_encodeMul]
  simp only [decodeMulFields, toNat_nibble, toNat_bitOf]
  omega

theorem encodeBx_decode (w : Word) (h : w.toNat / 2 ^ 4 % 2 ^ 24 = 0x12FFF1) : encodeBx (decodeBxFields w) = w := by
  apply BitVec.eq_of_toNat_eq
  have := w.isLt
  rw [toNat_encodeBx]
  simp only [decodeBxFields, toNat_nibble]
  omega

theorem encodeSdt_decode (w : Word) (h : w.toNat / 2 ^ 26 % 4 = 1) :
    encodeSdt (bitOf w 20) (decodeSdtFields w) = w := by
  apply BitVec.eq_of_toNat_eq
  have := w.isLt
  rw [toNat_encodeSdt]
  simp only [decodeSdtFields, toNat_nibble, toNat_bitOf, isReg_decodeSdtOffset, encodeSdtOffset_decode]
  omega

theorem encodeBranch_decode (m : BClassMask) (w : Word) (h : branchPattern m w.toNat) :
    encodeBranch (bitOf w 24) (decodeBranchFields w) = w := by
  apply BitVec.eq_of_toNat_eq
  have := w.isLt
  rw [toNat_encodeBranch]
  simp only [decodeBranchFields, toNat_nibble, toNat_bitOf, toNat_field]
  cases m <;> simp only [branchPattern] at h <;> omega

end Sys2Proof
end

