-- ==== Sys2Proof/Laws/Ops.lean ====
section
/-! SUPPORT. What each shared operation of the units can do, said once: the reads the operand forms count, the memory port,
the flag updates, the base updates and the loop's test. -/

namespace Sys2Proof.Machine

/-! ### Counting lists of registers -/

theorem count_cons_reg (d r : Reg) (l : List Reg) : (d :: l).count r = l.count r + if r = d then 1 else 0 := by
  rw [List.count_cons]
  by_cases h : r = d
  · simp [h]
  · have h' : ¬ d = r := fun e => h e.symm
    simp [h, h']

theorem count_append_reg (l l' : List Reg) (r : Reg) : (l ++ l').count r = l.count r + l'.count r :=
  List.count_append

/-! ### countAmountRead -/

@[simp] theorem reg_countAmountRead (s : State) (a : ShiftAmount) (r : Reg) : (countAmountRead s a).reg r = s.reg r := by
  cases a <;> rfl

@[simp] theorem pc_countAmountRead (s : State) (a : ShiftAmount) : (countAmountRead s a).pc = s.pc := by
  cases a <;> rfl

@[simp] theorem flags_countAmountRead (s : State) (a : ShiftAmount) : (countAmountRead s a).flags = s.flags := by
  cases a <;> rfl

@[simp] theorem mem_countAmountRead (s : State) (a : ShiftAmount) : (countAmountRead s a).mem = s.mem := by
  cases a <;> rfl

@[simp] theorem status_countAmountRead (s : State) (a : ShiftAmount) : (countAmountRead s a).status = s.status := by
  cases a <;> rfl

@[simp] theorem config_countAmountRead (s : State) (a : ShiftAmount) : (countAmountRead s a).config = s.config := by
  cases a <;> rfl

@[simp] theorem flagReads_countAmountRead (s : State) (a : ShiftAmount) :
    (countAmountRead s a).telemetry.flagReads = s.telemetry.flagReads := by
  cases a <;> rfl

@[simp] theorem flagWrites_countAmountRead (s : State) (a : ShiftAmount) :
    (countAmountRead s a).telemetry.flagWrites = s.telemetry.flagWrites := by
  cases a <;> rfl

@[simp] theorem memoryOps_countAmountRead (s : State) (a : ShiftAmount) :
    (countAmountRead s a).telemetry.memoryOps = s.telemetry.memoryOps := by
  cases a <;> rfl

@[simp] theorem computeOps_countAmountRead (s : State) (a : ShiftAmount) :
    (countAmountRead s a).telemetry.computeOps = s.telemetry.computeOps := by
  cases a <;> rfl

@[simp] theorem branchOps_countAmountRead (s : State) (a : ShiftAmount) :
    (countAmountRead s a).telemetry.branchOps = s.telemetry.branchOps := by
  cases a <;> rfl

@[simp] theorem writes_countAmountRead (s : State) (a : ShiftAmount) (r : Reg) : (countAmountRead s a).writes r = s.writes r := by
  cases a <;> rfl

/-- A register amount counts one read of its register. -/
@[simp] theorem reads_countAmountRead (s : State) (a : ShiftAmount) (r : Reg) :
    (countAmountRead s a).reads r = s.reads r + (amountReads a).count r := by
  cases a <;> simp [countAmountRead, amountReads, count_cons_reg]

/-! ### countShiftedReg -/

@[simp] theorem reg_countShiftedReg (s : State) (q : ShiftedReg) (r : Reg) : (countShiftedReg s q).reg r = s.reg r := by
  simp [countShiftedReg]

@[simp] theorem pc_countShiftedReg (s : State) (q : ShiftedReg) : (countShiftedReg s q).pc = s.pc := by
  simp [countShiftedReg]

@[simp] theorem flags_countShiftedReg (s : State) (q : ShiftedReg) : (countShiftedReg s q).flags = s.flags := by
  simp [countShiftedReg]

@[simp] theorem mem_countShiftedReg (s : State) (q : ShiftedReg) : (countShiftedReg s q).mem = s.mem := by
  simp [countShiftedReg]

@[simp] theorem status_countShiftedReg (s : State) (q : ShiftedReg) : (countShiftedReg s q).status = s.status := by
  simp [countShiftedReg]

@[simp] theorem config_countShiftedReg (s : State) (q : ShiftedReg) : (countShiftedReg s q).config = s.config := by
  simp [countShiftedReg]

@[simp] theorem flagReads_countShiftedReg (s : State) (q : ShiftedReg) :
    (countShiftedReg s q).telemetry.flagReads = s.telemetry.flagReads := by
  simp [countShiftedReg]

@[simp] theorem flagWrites_countShiftedReg (s : State) (q : ShiftedReg) :
    (countShiftedReg s q).telemetry.flagWrites = s.telemetry.flagWrites := by
  simp [countShiftedReg]

@[simp] theorem memoryOps_countShiftedReg (s : State) (q : ShiftedReg) :
    (countShiftedReg s q).telemetry.memoryOps = s.telemetry.memoryOps := by
  simp [countShiftedReg]

@[simp] theorem computeOps_countShiftedReg (s : State) (q : ShiftedReg) :
    (countShiftedReg s q).telemetry.computeOps = s.telemetry.computeOps := by
  simp [countShiftedReg]

@[simp] theorem branchOps_countShiftedReg (s : State) (q : ShiftedReg) :
    (countShiftedReg s q).telemetry.branchOps = s.telemetry.branchOps := by
  simp [countShiftedReg]

@[simp] theorem writes_countShiftedReg (s : State) (q : ShiftedReg) (r : Reg) : (countShiftedReg s q).writes r = s.writes r := by
  simp [countShiftedReg]

/-- The register form counts the reads of `rm` and of a register amount (R85). -/
@[simp] theorem reads_countShiftedReg (s : State) (q : ShiftedReg) (r : Reg) :
    (countShiftedReg s q).reads r = s.reads r + (shiftedRegReads q).count r := by
  simp only [countShiftedReg, reads_countAmountRead, reads_countRead, shiftedRegReads, count_cons_reg]; omega

/-! ### countOperand2 -/

@[simp] theorem reg_countOperand2 (s : State) (o : Operand2) (r : Reg) : (countOperand2 s o).reg r = s.reg r := by
  cases o <;> simp [countOperand2]

@[simp] theorem pc_countOperand2 (s : State) (o : Operand2) : (countOperand2 s o).pc = s.pc := by
  cases o <;> simp [countOperand2]

@[simp] theorem flags_countOperand2 (s : State) (o : Operand2) : (countOperand2 s o).flags = s.flags := by
  cases o <;> simp [countOperand2]

@[simp] theorem mem_countOperand2 (s : State) (o : Operand2) : (countOperand2 s o).mem = s.mem := by
  cases o <;> simp [countOperand2]

@[simp] theorem status_countOperand2 (s : State) (o : Operand2) : (countOperand2 s o).status = s.status := by
  cases o <;> simp [countOperand2]

@[simp] theorem config_countOperand2 (s : State) (o : Operand2) : (countOperand2 s o).config = s.config := by
  cases o <;> simp [countOperand2]

@[simp] theorem flagReads_countOperand2 (s : State) (o : Operand2) :
    (countOperand2 s o).telemetry.flagReads = s.telemetry.flagReads := by
  cases o <;> simp [countOperand2]

@[simp] theorem flagWrites_countOperand2 (s : State) (o : Operand2) :
    (countOperand2 s o).telemetry.flagWrites = s.telemetry.flagWrites := by
  cases o <;> simp [countOperand2]

@[simp] theorem memoryOps_countOperand2 (s : State) (o : Operand2) :
    (countOperand2 s o).telemetry.memoryOps = s.telemetry.memoryOps := by
  cases o <;> simp [countOperand2]

@[simp] theorem computeOps_countOperand2 (s : State) (o : Operand2) :
    (countOperand2 s o).telemetry.computeOps = s.telemetry.computeOps := by
  cases o <;> simp [countOperand2]

@[simp] theorem branchOps_countOperand2 (s : State) (o : Operand2) :
    (countOperand2 s o).telemetry.branchOps = s.telemetry.branchOps := by
  cases o <;> simp [countOperand2]

@[simp] theorem writes_countOperand2 (s : State) (o : Operand2) (r : Reg) : (countOperand2 s o).writes r = s.writes r := by
  cases o <;> simp [countOperand2]

/-- Operand 2 counts the reads of its register form only (R83, R85). -/
@[simp] theorem reads_countOperand2 (s : State) (o : Operand2) (r : Reg) :
    (countOperand2 s o).reads r = s.reads r + (operand2Reads o).count r := by
  cases o <;> simp [countOperand2, operand2Reads]

/-! ### countSdtOffset -/

@[simp] theorem reg_countSdtOffset (s : State) (o : SdtOffset) (r : Reg) : (countSdtOffset s o).reg r = s.reg r := by
  cases o <;> simp [countSdtOffset]

@[simp] theorem pc_countSdtOffset (s : State) (o : SdtOffset) : (countSdtOffset s o).pc = s.pc := by
  cases o <;> simp [countSdtOffset]

@[simp] theorem flags_countSdtOffset (s : State) (o : SdtOffset) : (countSdtOffset s o).flags = s.flags := by
  cases o <;> simp [countSdtOffset]

@[simp] theorem mem_countSdtOffset (s : State) (o : SdtOffset) : (countSdtOffset s o).mem = s.mem := by
  cases o <;> simp [countSdtOffset]

@[simp] theorem status_countSdtOffset (s : State) (o : SdtOffset) : (countSdtOffset s o).status = s.status := by
  cases o <;> simp [countSdtOffset]

@[simp] theorem config_countSdtOffset (s : State) (o : SdtOffset) : (countSdtOffset s o).config = s.config := by
  cases o <;> simp [countSdtOffset]

@[simp] theorem flagReads_countSdtOffset (s : State) (o : SdtOffset) :
    (countSdtOffset s o).telemetry.flagReads = s.telemetry.flagReads := by
  cases o <;> simp [countSdtOffset]

@[simp] theorem flagWrites_countSdtOffset (s : State) (o : SdtOffset) :
    (countSdtOffset s o).telemetry.flagWrites = s.telemetry.flagWrites := by
  cases o <;> simp [countSdtOffset]

@[simp] theorem memoryOps_countSdtOffset (s : State) (o : SdtOffset) :
    (countSdtOffset s o).telemetry.memoryOps = s.telemetry.memoryOps := by
  cases o <;> simp [countSdtOffset]

@[simp] theorem computeOps_countSdtOffset (s : State) (o : SdtOffset) :
    (countSdtOffset s o).telemetry.computeOps = s.telemetry.computeOps := by
  cases o <;> simp [countSdtOffset]

@[simp] theorem branchOps_countSdtOffset (s : State) (o : SdtOffset) :
    (countSdtOffset s o).telemetry.branchOps = s.telemetry.branchOps := by
  cases o <;> simp [countSdtOffset]

@[simp] theorem writes_countSdtOffset (s : State) (o : SdtOffset) (r : Reg) : (countSdtOffset s o).writes r = s.writes r := by
  cases o <;> simp [countSdtOffset]

/-- The offset counts the reads of its register form only (R151). -/
@[simp] theorem reads_countSdtOffset (s : State) (o : SdtOffset) (r : Reg) :
    (countSdtOffset s o).reads r = s.reads r + (offsetReads o).count r := by
  cases o <;> simp [countSdtOffset, offsetReads]

/-! ### The register write of an arm -/

@[simp] theorem reg_writeCounted (d : Reg) (v : Word) (s : State) (r : Reg) :
    (writeCounted d v s).reg r = if r = d then v else s.reg r := by simp [writeCounted]

@[simp] theorem pc_writeCounted (d : Reg) (v : Word) (s : State) :
    (writeCounted d v s).pc = if Reg.pc = d then v else s.pc := by simp [writeCounted]

@[simp] theorem writes_writeCounted (d : Reg) (v : Word) (s : State) (r : Reg) :
    (writeCounted d v s).writes r = s.writes r + if r = d then 1 else 0 := by simp [writeCounted]

@[simp] theorem reads_writeCounted (d : Reg) (v : Word) (s : State) (r : Reg) :
    (writeCounted d v s).reads r = s.reads r := by simp [writeCounted]

@[simp] theorem flags_writeCounted (d : Reg) (v : Word) (s : State) : (writeCounted d v s).flags = s.flags := rfl
@[simp] theorem mem_writeCounted (d : Reg) (v : Word) (s : State) : (writeCounted d v s).mem = s.mem := rfl
@[simp] theorem status_writeCounted (d : Reg) (v : Word) (s : State) : (writeCounted d v s).status = s.status := rfl
@[simp] theorem config_writeCounted (d : Reg) (v : Word) (s : State) : (writeCounted d v s).config = s.config := rfl
@[simp] theorem flagReads_writeCounted (d : Reg) (v : Word) (s : State) :
    (writeCounted d v s).telemetry.flagReads = s.telemetry.flagReads := rfl
@[simp] theorem flagWrites_writeCounted (d : Reg) (v : Word) (s : State) :
    (writeCounted d v s).telemetry.flagWrites = s.telemetry.flagWrites := rfl
@[simp] theorem memoryOps_writeCounted (d : Reg) (v : Word) (s : State) :
    (writeCounted d v s).telemetry.memoryOps = s.telemetry.memoryOps := rfl
@[simp] theorem computeOps_writeCounted (d : Reg) (v : Word) (s : State) :
    (writeCounted d v s).telemetry.computeOps = s.telemetry.computeOps := rfl
@[simp] theorem branchOps_writeCounted (d : Reg) (v : Word) (s : State) :
    (writeCounted d v s).telemetry.branchOps = s.telemetry.branchOps := rfl

/-! ### Flags -/

@[simp] theorem flags_setCompareFlags (s : State) (a b : Word) :
    (setCompareFlags s a b).flags = compareSentinel s.config (a - b) := rfl

@[simp] theorem flagWrites_setCompareFlags (s : State) (a b : Word) :
    (setCompareFlags s a b).telemetry.flagWrites = s.telemetry.flagWrites + 1 := rfl

@[simp] theorem reg_setCompareFlags (s : State) (a b : Word) (r : Reg) : (setCompareFlags s a b).reg r = s.reg r := rfl
@[simp] theorem pc_setCompareFlags (s : State) (a b : Word) : (setCompareFlags s a b).pc = s.pc := rfl
@[simp] theorem mem_setCompareFlags (s : State) (a b : Word) : (setCompareFlags s a b).mem = s.mem := rfl
@[simp] theorem status_setCompareFlags (s : State) (a b : Word) : (setCompareFlags s a b).status = s.status := rfl
@[simp] theorem config_setCompareFlags (s : State) (a b : Word) : (setCompareFlags s a b).config = s.config := rfl
@[simp] theorem reads_setCompareFlags (s : State) (a b : Word) (r : Reg) : (setCompareFlags s a b).reads r = s.reads r := rfl
@[simp] theorem writes_setCompareFlags (s : State) (a b : Word) (r : Reg) : (setCompareFlags s a b).writes r = s.writes r := rfl
@[simp] theorem flagReads_setCompareFlags (s : State) (a b : Word) :
    (setCompareFlags s a b).telemetry.flagReads = s.telemetry.flagReads := rfl
@[simp] theorem memoryOps_setCompareFlags (s : State) (a b : Word) :
    (setCompareFlags s a b).telemetry.memoryOps = s.telemetry.memoryOps := rfl
@[simp] theorem computeOps_setCompareFlags (s : State) (a b : Word) :
    (setCompareFlags s a b).telemetry.computeOps = s.telemetry.computeOps := rfl
@[simp] theorem branchOps_setCompareFlags (s : State) (a b : Word) :
    (setCompareFlags s a b).telemetry.branchOps = s.telemetry.branchOps := rfl

/-- The comparison's sentinel is one of the three (R104). -/
theorem compareSentinel_mem (c : Config) (r : Word) : compareSentinel c r ∈ [c.flagEq, c.flagGt, c.flagLt] := by
  unfold compareSentinel
  split
  · simp
  · split <;> simp

@[simp] theorem flags_setMultiplyFlags (s : State) (b : Bool) (p : Word) :
    (setMultiplyFlags s b p).flags = if b = true ∧ productNegative p = true then s.config.flagNeg else s.flags := by
  unfold setMultiplyFlags
  cases b <;> cases productNegative p <;> simp

@[simp] theorem reg_setMultiplyFlags (s : State) (b : Bool) (p : Word) (r : Reg) :
    (setMultiplyFlags s b p).reg r = s.reg r := by
  unfold setMultiplyFlags; split <;> rfl
@[simp] theorem pc_setMultiplyFlags (s : State) (b : Bool) (p : Word) :
    (setMultiplyFlags s b p).pc = s.pc := by
  unfold setMultiplyFlags; split <;> rfl
@[simp] theorem mem_setMultiplyFlags (s : State) (b : Bool) (p : Word) :
    (setMultiplyFlags s b p).mem = s.mem := by
  unfold setMultiplyFlags; split <;> rfl
@[simp] theorem status_setMultiplyFlags (s : State) (b : Bool) (p : Word) :
    (setMultiplyFlags s b p).status = s.status := by
  unfold setMultiplyFlags; split <;> rfl
@[simp] theorem config_setMultiplyFlags (s : State) (b : Bool) (p : Word) :
    (setMultiplyFlags s b p).config = s.config := by
  unfold setMultiplyFlags; split <;> rfl
@[simp] theorem reads_setMultiplyFlags (s : State) (b : Bool) (p : Word) (r : Reg) :
    (setMultiplyFlags s b p).reads r = s.reads r := by
  unfold setMultiplyFlags; split <;> rfl
@[simp] theorem writes_setMultiplyFlags (s : State) (b : Bool) (p : Word) (r : Reg) :
    (setMultiplyFlags s b p).writes r = s.writes r := by
  unfold setMultiplyFlags; split <;> rfl
@[simp] theorem flagReads_setMultiplyFlags (s : State) (b : Bool) (p : Word) :
    (setMultiplyFlags s b p).telemetry.flagReads = s.telemetry.flagReads := by
  unfold setMultiplyFlags; split <;> rfl
@[simp] theorem flagWrites_setMultiplyFlags (s : State) (b : Bool) (p : Word) :
    (setMultiplyFlags s b p).telemetry.flagWrites = s.telemetry.flagWrites := by
  unfold setMultiplyFlags; split <;> rfl
@[simp] theorem memoryOps_setMultiplyFlags (s : State) (b : Bool) (p : Word) :
    (setMultiplyFlags s b p).telemetry.memoryOps = s.telemetry.memoryOps := by
  unfold setMultiplyFlags; split <;> rfl
@[simp] theorem computeOps_setMultiplyFlags (s : State) (b : Bool) (p : Word) :
    (setMultiplyFlags s b p).telemetry.computeOps = s.telemetry.computeOps := by
  unfold setMultiplyFlags; split <;> rfl
@[simp] theorem branchOps_setMultiplyFlags (s : State) (b : Bool) (p : Word) :
    (setMultiplyFlags s b p).telemetry.branchOps = s.telemetry.branchOps := by
  unfold setMultiplyFlags; split <;> rfl

/-! ### The base register's updates -/

@[simp] theorem reg_indexBase (go : Bool) (n : Reg) (o : Word) (s : State) (r : Reg) :
    (indexBase go n o s).reg r = if go = true ∧ r = n then s.reg n + o else s.reg r := by
  cases go <;> simp [indexBase]

@[simp] theorem pc_indexBase (go : Bool) (n : Reg) (o : Word) (s : State) :
    (indexBase go n o s).pc = if go = true ∧ Reg.pc = n then s.reg n + o else s.pc :=
  reg_indexBase go n o s Reg.pc

@[simp] theorem reg_writeBack (w : Bool) (n : Reg) (o : Word) (s : State) (r : Reg) :
    (writeBack w n o s).reg r = if w = false ∧ r = n then s.reg n - o else s.reg r := by
  cases w <;> simp [writeBack]

@[simp] theorem pc_writeBack (w : Bool) (n : Reg) (o : Word) (s : State) :
    (writeBack w n o s).pc = if w = false ∧ Reg.pc = n then s.reg n - o else s.pc :=
  reg_writeBack w n o s Reg.pc

@[simp] theorem writes_writeBack (w : Bool) (n : Reg) (o : Word) (s : State) (r : Reg) :
    (writeBack w n o s).writes r = s.writes r + (if w then [n] else []).count r := by
  cases w <;> simp [writeBack, count_cons_reg]

@[simp] theorem reads_writeBack (w : Bool) (n : Reg) (o : Word) (s : State) (r : Reg) :
    (writeBack w n o s).reads r = s.reads r := by
  cases w <;> rfl

@[simp] theorem reads_indexBase (go : Bool) (n : Reg) (o : Word) (s : State) (r : Reg) :
    (indexBase go n o s).reads r = s.reads r := by
  cases go <;> rfl

@[simp] theorem writes_indexBase (go : Bool) (n : Reg) (o : Word) (s : State) (r : Reg) :
    (indexBase go n o s).writes r = s.writes r := by
  cases go <;> rfl

@[simp] theorem flags_indexBase (g : Bool) (n : Reg) (o : Word) (s : State) : (indexBase g n o s).flags = s.flags := by
  cases g <;> rfl
@[simp] theorem mem_indexBase (g : Bool) (n : Reg) (o : Word) (s : State) : (indexBase g n o s).mem = s.mem := by
  cases g <;> rfl
@[simp] theorem status_indexBase (g : Bool) (n : Reg) (o : Word) (s : State) : (indexBase g n o s).status = s.status := by
  cases g <;> rfl
@[simp] theorem config_indexBase (g : Bool) (n : Reg) (o : Word) (s : State) : (indexBase g n o s).config = s.config := by
  cases g <;> rfl
@[simp] theorem flagReads_indexBase (g : Bool) (n : Reg) (o : Word) (s : State) :
    (indexBase g n o s).telemetry.flagReads = s.telemetry.flagReads := by
  cases g <;> rfl
@[simp] theorem flagWrites_indexBase (g : Bool) (n : Reg) (o : Word) (s : State) :
    (indexBase g n o s).telemetry.flagWrites = s.telemetry.flagWrites := by
  cases g <;> rfl
@[simp] theorem memoryOps_indexBase (g : Bool) (n : Reg) (o : Word) (s : State) :
    (indexBase g n o s).telemetry.memoryOps = s.telemetry.memoryOps := by
  cases g <;> rfl
@[simp] theorem computeOps_indexBase (g : Bool) (n : Reg) (o : Word) (s : State) :
    (indexBase g n o s).telemetry.computeOps = s.telemetry.computeOps := by
  cases g <;> rfl
@[simp] theorem branchOps_indexBase (g : Bool) (n : Reg) (o : Word) (s : State) :
    (indexBase g n o s).telemetry.branchOps = s.telemetry.branchOps := by
  cases g <;> rfl
@[simp] theorem flags_writeBack (g : Bool) (n : Reg) (o : Word) (s : State) : (writeBack g n o s).flags = s.flags := by
  cases g <;> rfl
@[simp] theorem mem_writeBack (g : Bool) (n : Reg) (o : Word) (s : State) : (writeBack g n o s).mem = s.mem := by
  cases g <;> rfl
@[simp] theorem status_writeBack (g : Bool) (n : Reg) (o : Word) (s : State) : (writeBack g n o s).status = s.status := by
  cases g <;> rfl
@[simp] theorem config_writeBack (g : Bool) (n : Reg) (o : Word) (s : State) : (writeBack g n o s).config = s.config := by
  cases g <;> rfl
@[simp] theorem flagReads_writeBack (g : Bool) (n : Reg) (o : Word) (s : State) :
    (writeBack g n o s).telemetry.flagReads = s.telemetry.flagReads := by
  cases g <;> rfl
@[simp] theorem flagWrites_writeBack (g : Bool) (n : Reg) (o : Word) (s : State) :
    (writeBack g n o s).telemetry.flagWrites = s.telemetry.flagWrites := by
  cases g <;> rfl
@[simp] theorem memoryOps_writeBack (g : Bool) (n : Reg) (o : Word) (s : State) :
    (writeBack g n o s).telemetry.memoryOps = s.telemetry.memoryOps := by
  cases g <;> rfl
@[simp] theorem computeOps_writeBack (g : Bool) (n : Reg) (o : Word) (s : State) :
    (writeBack g n o s).telemetry.computeOps = s.telemetry.computeOps := by
  cases g <;> rfl
@[simp] theorem branchOps_writeBack (g : Bool) (n : Reg) (o : Word) (s : State) :
    (writeBack g n o s).telemetry.branchOps = s.telemetry.branchOps := by
  cases g <;> rfl

/-! ### The memory port -/

/-- `MemRead` answers the word exactly when the port makes the access, and a fault with the access's address otherwise. -/
theorem memRead_ok_iff (s : State) (a v : Word) :
    memRead s a = .ok v ↔ accessOk s.config a .read = true ∧ v = s.wordAt a := by
  unfold memRead
  split
  · next h => simp [h, eq_comm]
  · next h => simp [h]

theorem memRead_error_iff (s : State) (a : Word) (f : Fault) :
    memRead s a = .error f ↔ accessOk s.config a .read = false ∧ f = .memoryFault a .read := by
  unfold memRead
  split
  · next h => simp [h]
  · next h => simp [h, eq_comm]

/-- `MemWrite` answers the state with the word stored exactly when the port makes the access. -/
theorem memWrite_ok_iff (s t : State) (a v : Word) :
    memWrite s a v = .ok t ↔ accessOk s.config a .write = true ∧ t = s.setMem (s.mem.writeWord a v) := by
  unfold memWrite
  split
  · next h => simp [h, eq_comm]
  · next h => simp [h]

theorem memWrite_error_iff (s : State) (a v : Word) (f : Fault) :
    memWrite s a v = .error f ↔ accessOk s.config a .write = false ∧ f = .memoryFault a .write := by
  unfold memWrite
  split
  · next h => simp [h]
  · next h => simp [h, eq_comm]

/-! ### The effective address -/

/-- The address of the sequence (R152) is the one the claims name (R155). -/
theorem effectiveAddress_eq (f : SdtFields) (s : State) : effectiveAddress f s = sdtAddress f s := by
  unfold effectiveAddress sdtIndexed sdtAddress
  cases f.p <;> simp

theorem mem_sdtIndexed (f : SdtFields) (s : State) : (sdtIndexed f s).mem = s.mem := by simp [sdtIndexed]

theorem config_sdtIndexed (f : SdtFields) (s : State) : (sdtIndexed f s).config = s.config := by simp [sdtIndexed]

/-! ### The loop's test -/

theorem settle_cases (s : State) :
    (s.pc = retSentinel ∧ s.settle = s.setStatus .done) ∨ (s.pc ≠ retSentinel ∧ s.settle = s) := by
  unfold State.settle
  by_cases h : s.pc = retSentinel
  · exact .inl ⟨h, if_pos h⟩
  · exact .inr ⟨h, if_neg h⟩

@[simp] theorem reg_settle (s : State) (r : Reg) : s.settle.reg r = s.reg r := by
  unfold State.settle; split <;> rfl
@[simp] theorem pc_settle (s : State) : s.settle.pc = s.pc := by
  unfold State.settle; split <;> rfl
@[simp] theorem flags_settle (s : State) : s.settle.flags = s.flags := by
  unfold State.settle; split <;> rfl
@[simp] theorem mem_settle (s : State) : s.settle.mem = s.mem := by
  unfold State.settle; split <;> rfl
@[simp] theorem config_settle (s : State) : s.settle.config = s.config := by
  unfold State.settle; split <;> rfl
@[simp] theorem telemetry_settle (s : State) : s.settle.telemetry = s.telemetry := by
  unfold State.settle; split <;> rfl

end Sys2Proof.Machine
end

