-- ==== Sys2Proof/Laws/Exec.lean ====
section
/-! SUPPORT. What an instruction's next state is, said once: the equations of a load and a store, the cases of a branch, and the
fields no instruction writes. -/

namespace Sys2Proof.Machine

/-! ### The port, in numbers -/

/-- `Valid(a, kind)` as a proposition (R54). -/
theorem validByte_iff (c : Config) (a : Word) (k : AccessKind) :
    validByte c a k = true ↔
      (c.stackBase.toNat ≤ a.toNat ∧ a.toNat < c.stackBase.toNat + stackSize) ∨
        ∃ r ∈ c.regions, (r.base ≤ a.toNat ∧ a.toNat < r.base + r.size) ∧ regionPermits r k = true := by
  simp only [validByte, inStack, regionHolds, Bool.or_eq_true, Bool.and_eq_true, decide_eq_true_eq, List.any_eq_true]

/-! ### Load and store -/

theorem add_sub_cancel_word (b o : Word) : b + o - o = b := by bv_omega

/-- The register a store takes, after the pre-index update (R154, R156). -/
theorem reg_sdtIndexed_rd (f : SdtFields) (s : State) : (sdtIndexed f s).reg f.rd = storedWord f s := by
  unfold sdtIndexed storedWord sdtAddress
  simp only [reg_indexBase, reg_countSdtOffset]
  by_cases e : f.rd = f.rn <;> cases f.p <;> simp [e]

/-- A load whose access the port makes: the indexed base, the loaded word, then the steps after the access (R152, R153). -/
theorem execLdr_of_ok (f : SdtFields) (s : State) (h : accessOk s.config (sdtAddress f s) .read = true) :
    execLdr f s = .next (sdtFinish f (sdtOffsetValue s f.u f.offset)
      (((sdtIndexed f s).setReg f.rd (s.wordAt (sdtAddress f s))).countWrite f.rd)) := by
  have hr : memRead (sdtIndexed f s) (effectiveAddress f s) = .ok (s.wordAt (sdtAddress f s)) := by
    rw [memRead_ok_iff, config_sdtIndexed, effectiveAddress_eq]
    exact ⟨h, wordAt_congr (mem_sdtIndexed f s).symm _⟩
  unfold execLdr sdtSequence loadArm
  simp only [hr]

/-- A store whose access the port makes (R152, R154). -/
theorem execStr_of_ok (f : SdtFields) (s : State) (h : accessOk s.config (sdtAddress f s) .write = true) :
    execStr f s = .next (sdtFinish f (sdtOffsetValue s f.u f.offset)
      (((sdtIndexed f s).countRead f.rd).setMem (s.mem.writeWord (sdtAddress f s) (storedWord f s)))) := by
  have hw : memWrite ((sdtIndexed f s).countRead f.rd) (effectiveAddress f s) ((sdtIndexed f s).reg f.rd) =
      .ok (((sdtIndexed f s).countRead f.rd).setMem (s.mem.writeWord (sdtAddress f s) (storedWord f s))) := by
    rw [memWrite_ok_iff, effectiveAddress_eq, reg_sdtIndexed_rd]
    exact ⟨by rw [config_countRead, config_sdtIndexed]; exact h, by rw [mem_countRead, mem_sdtIndexed]⟩
  unfold execStr sdtSequence storeArm
  simp only [hw]

/-- A load that gives a next state had its access made. -/
theorem execLdr_next (f : SdtFields) (s t : State) (h : execLdr f s = .next t) :
    accessOk s.config (sdtAddress f s) .read = true := by
  cases ha : accessOk s.config (sdtAddress f s) .read with
  | true => rfl
  | false =>
    have hr : memRead (sdtIndexed f s) (effectiveAddress f s) = .error (.memoryFault (sdtAddress f s) .read) := by
      rw [memRead_error_iff, config_sdtIndexed, effectiveAddress_eq]; exact ⟨ha, rfl⟩
    unfold execLdr sdtSequence loadArm at h
    simp only [hr] at h
    cases h

/-- A store that gives a next state had its access made. -/
theorem execStr_next (f : SdtFields) (s t : State) (h : execStr f s = .next t) :
    accessOk s.config (sdtAddress f s) .write = true := by
  cases ha : accessOk s.config (sdtAddress f s) .write with
  | true => rfl
  | false =>
    have hw : memWrite ((sdtIndexed f s).countRead f.rd) (effectiveAddress f s) ((sdtIndexed f s).reg f.rd) =
        .error (.memoryFault (sdtAddress f s) .write) := by
      rw [memWrite_error_iff, effectiveAddress_eq]
      exact ⟨by rw [config_countRead, config_sdtIndexed]; exact ha, rfl⟩
    unfold execStr sdtSequence storeArm at h
    simp only [hw] at h
    cases h

/-! ### Branch -/

theorem condIsFlags_iff (s : State) (c : BitVec 4) : condIsFlags s c = true ↔ c.toNat = s.flags.toNat := by
  have := c.isLt
  simp only [condIsFlags, beq_iff_eq]
  rw [← BitVec.toNat_inj, BitVec.toNat_setWidth, Nat.mod_eq_of_lt (by omega)]

/-- A B jumps somewhere, with one flag read counted or, in case 5, none (R171). -/
theorem execB_next (f : BranchFields) (s : State) :
    ∃ x, execB f s = .next (s.countFlagRead.setPc x) ∨ execB f s = .next (s.setPc x) := by
  unfold execB
  split
  · split
    · exact ⟨_, .inl rfl⟩
    · exact ⟨_, .inl rfl⟩
  · split
    · exact ⟨_, .inl rfl⟩
    · split
      · exact ⟨_, .inl rfl⟩
      · exact ⟨_, .inr rfl⟩

/-! ### Every next state -/

/-- What the next state of an instruction can be, unit by unit. -/
inductive NextShape (s : State) : Instr → State → Prop where
  | mov (f : DpFields) : NextShape s (.mov f) (movArm f (operand2Value s f.op2) (countOperand2 s f.op2)).advanceCounted
  | add (f : DpFields) : NextShape s (.add f) (addArm f (operand2Value s f.op2) (countOperand2 s f.op2)).advanceCounted
  | sub (f : DpFields) : NextShape s (.sub f) (subArm f (operand2Value s f.op2) (countOperand2 s f.op2)).advanceCounted
  | cmp (f : DpFields) : NextShape s (.cmp f) (cmpArm f (operand2Value s f.op2) (countOperand2 s f.op2)).advanceCounted
  | noOp (f : DpFields) (i : Instr)
      (hi : i ∈ [Instr.and f, .eor f, .rsb f, .adc f, .sbc f, .rsc f, .tst f, .teq f, .cmn f, .orr f, .bic f, .mvn f]) :
      NextShape s i (countOperand2 s f.op2).advanceCounted
  | mul (f : MulFields) : NextShape s (.mul f) (multiplyArm f s).advance
  | bx (f : BxFields) : NextShape s (.bx f) (((s.countRead f.rm).setPc (s.reg f.rm)).countWrite Reg.pc)
  | ldr (f : SdtFields) (ha : accessOk s.config (sdtAddress f s) .read = true) :
      NextShape s (.ldr f) (sdtFinish f (sdtOffsetValue s f.u f.offset)
        (((sdtIndexed f s).setReg f.rd (s.wordAt (sdtAddress f s))).countWrite f.rd))
  | str (f : SdtFields) (ha : accessOk s.config (sdtAddress f s) .write = true) :
      NextShape s (.str f) (sdtFinish f (sdtOffsetValue s f.u f.offset)
        (((sdtIndexed f s).countRead f.rd).setMem (s.mem.writeWord (sdtAddress f s) (storedWord f s))))
  | bRead (f : BranchFields) (x : Word) : NextShape s (.b f) (s.countFlagRead.setPc x)
  | bAlways (f : BranchFields) (x : Word) : NextShape s (.b f) (s.setPc x)
  | bl (f : BranchFields) : NextShape s (.bl f)
      ((((s.countRead Reg.pc).setReg Reg.lr (s.pc + 4#32)).countWrite Reg.lr).setPc (branchTarget s.pc f.imm24))

/-- Every next state of an instruction has its unit's shape. -/
theorem exec_shape (i : Instr) (s t : State) (h : exec i s = .next t) : NextShape s i t := by
  cases i with
  | mov f => cases h; exact .mov f
  | add f => cases h; exact .add f
  | sub f => cases h; exact .sub f
  | cmp f => cases h; exact .cmp f
  | and f => cases h; exact .noOp f _ (by simp)
  | eor f => cases h; exact .noOp f _ (by simp)
  | rsb f => cases h; exact .noOp f _ (by simp)
  | adc f => cases h; exact .noOp f _ (by simp)
  | sbc f => cases h; exact .noOp f _ (by simp)
  | rsc f => cases h; exact .noOp f _ (by simp)
  | tst f => cases h; exact .noOp f _ (by simp)
  | teq f => cases h; exact .noOp f _ (by simp)
  | cmn f => cases h; exact .noOp f _ (by simp)
  | orr f => cases h; exact .noOp f _ (by simp)
  | bic f => cases h; exact .noOp f _ (by simp)
  | mvn f => cases h; exact .noOp f _ (by simp)
  | mul f => cases h; exact .mul f
  | bx f => cases h; exact .bx f
  | ldr f =>
    have h : execLdr f s = .next t := h
    have ha := execLdr_next f s t h
    rw [execLdr_of_ok f s ha] at h; cases h; exact .ldr f ha
  | str f =>
    have h : execStr f s = .next t := h
    have ha := execStr_next f s t h
    rw [execStr_of_ok f s ha] at h; cases h; exact .str f ha
  | b f =>
    have h : execB f s = .next t := h
    obtain ⟨x, hx | hx⟩ := execB_next f s
    · rw [hx] at h; cases h; exact .bRead f x
    · rw [hx] at h; cases h; exact .bAlways f x
  | bl f => cases h; exact .bl f

/-- No instruction writes the run status: the loop does (R190). -/
theorem exec_status (i : Instr) (s t : State) (h : exec i s = .next t) : t.status = s.status := by
  cases exec_shape i s t h <;>
    simp [movArm, addArm, subArm, cmpArm, multiplyArm, sdtFinish, sdtIndexed]

/-- No instruction writes a parameter (R34). -/
theorem exec_config (i : Instr) (s t : State) (h : exec i s = .next t) : t.config = s.config := by
  cases exec_shape i s t h <;>
    simp [movArm, addArm, subArm, cmpArm, multiplyArm, sdtFinish, sdtIndexed]

end Sys2Proof.Machine
end

