-- ==== Sys2Proof/Laws/PerInstr.lean ====
section
/-! SUPPORT. A law of every instruction as syntax: the classifier gives the word of a well-formed instruction back to the
family whose unit executes it (spec/30_encoding.md R77, R93). One lemma per constructor. -/

namespace Sys2Proof.Laws.EncodingClass

/-- The classifier gives the instruction's word the instruction's family, under every reading of the mask for which the
instruction is well formed. -/
def Statement (i : Instr) : Prop :=
  ∀ m : BClassMask, WellFormed m i = true → classify m (encode i) = some (familyOf i)

/-- A Data Processing row other than AND, EOR and TEQ asks only what every such row does. -/
theorem of_plain (m : BClassMask) (op : BitVec 4) (f : DpFields) (h : f.wf m = true)
    (hop : op ≠ 0#4 ∧ op ≠ 1#4 ∧ op ≠ 9#4) : classify m (encodeDp op f) = some .dataProcessing :=
  classify_encodeDp m op f h (fun e => absurd e hop.2.2) (fun e => absurd e (by tauto))

theorem mov (f : DpFields) : Statement (.mov f) := fun m h => of_plain m _ f h (by decide)

theorem add (f : DpFields) : Statement (.add f) := fun m h => of_plain m _ f h (by decide)

theorem sub (f : DpFields) : Statement (.sub f) := fun m h => of_plain m _ f h (by decide)

theorem cmp (f : DpFields) : Statement (.cmp f) := fun m h => of_plain m _ f h (by decide)

theorem and (f : DpFields) : Statement (.and f) := fun m h =>
  classify_encodeDp m _ f (Bool.and_eq_true_iff.mp h).1 (fun e => absurd e (by decide)) fun _ => (Bool.and_eq_true_iff.mp h).2

theorem eor (f : DpFields) : Statement (.eor f) := fun m h =>
  classify_encodeDp m _ f (Bool.and_eq_true_iff.mp h).1 (fun e => absurd e (by decide)) fun _ => (Bool.and_eq_true_iff.mp h).2

theorem rsb (f : DpFields) : Statement (.rsb f) := fun m h => of_plain m _ f h (by decide)

theorem adc (f : DpFields) : Statement (.adc f) := fun m h => of_plain m _ f h (by decide)

theorem sbc (f : DpFields) : Statement (.sbc f) := fun m h => of_plain m _ f h (by decide)

theorem rsc (f : DpFields) : Statement (.rsc f) := fun m h => of_plain m _ f h (by decide)

theorem tst (f : DpFields) : Statement (.tst f) := fun m h => of_plain m _ f h (by decide)

theorem teq (f : DpFields) : Statement (.teq f) := fun m h =>
  classify_encodeDp m _ f (Bool.and_eq_true_iff.mp h).1 (fun _ => (Bool.and_eq_true_iff.mp h).2) fun e => absurd e (by decide)

theorem cmn (f : DpFields) : Statement (.cmn f) := fun m h => of_plain m _ f h (by decide)

theorem orr (f : DpFields) : Statement (.orr f) := fun m h => of_plain m _ f h (by decide)

theorem bic (f : DpFields) : Statement (.bic f) := fun m h => of_plain m _ f h (by decide)

theorem mvn (f : DpFields) : Statement (.mvn f) := fun m h => of_plain m _ f h (by decide)

theorem mul (f : MulFields) : Statement (.mul f) := fun m _ => classify_encodeMul m f

theorem bx (f : BxFields) : Statement (.bx f) := fun m _ => classify_encodeBx m f

theorem ldr (f : SdtFields) : Statement (.ldr f) := fun m _ => classify_encodeSdt m _ f

theorem str (f : SdtFields) : Statement (.str f) := fun m _ => classify_encodeSdt m _ f

theorem b (f : BranchFields) : Statement (.b f) := fun m h => classify_encodeBranch m _ f h

theorem bl (f : BranchFields) : Statement (.bl f) := fun m h => classify_encodeBranch m _ f h

end Sys2Proof.Laws.EncodingClass
end

