-- ==== Sys2Proof/Laws/Step.lean ====
section
/-! SUPPORT. What a step of the loop can do, said once: its next states and its stops. -/

namespace Sys2Proof.Machine

/-- Every word decodes (R78). -/
theorem decodeWord_total (m : BClassMask) (w : Word) : ∃ i, decodeWord m w = .ok i := by
  unfold decodeWord classify
  rw [if_pos (dpTest_true w)]
  repeat' split
  all_goals simp_all
  all_goals (repeat' split at *)
  all_goals simp_all

/-- A step that gives a next state: the loop's end at the sentinel, or one instruction fetched, decoded, counted and run, with
the loop's test made on its next state (R190, R191, R192). -/
theorem step_next (s t : State) (h : step s = .next t) :
    (s.status = .running ∧ s.pc = retSentinel ∧ t = s.setStatus .done) ∨
    (s.status = .running ∧ s.pc ≠ retSentinel ∧ accessOk s.config s.pc .read = true ∧
      ∃ i u, decodeWord s.config.branchMask (s.wordAt s.pc) = .ok i ∧
        exec i (s.countFamily (familyOf i)) = .next u ∧ t = u.settle) := by
  unfold step loopStep at h
  split at h
  · next hs =>
    split at h
    · next hz => cases h; exact .inl ⟨hs, hz, rfl⟩
    · next hz =>
      refine .inr ⟨hs, hz, ?_⟩
      unfold fetchExecute at h
      split at h
      · cases h
      · next w hw =>
        obtain ⟨ha, rfl⟩ := (memRead_ok_iff s s.pc w).mp hw
        refine ⟨ha, ?_⟩
        split at h
        · cases h
        · next i hi =>
          unfold runInstr settleOutcome at h
          split at h
          · next u hu => cases h; exact ⟨i, u, hi, hu, rfl⟩
          · cases h
          · cases h
  · cases h
  · cases h

/-- A step that fetches and decodes `i` is `i`'s run (R191). -/
theorem step_of_decode (s : State) (i : Instr) (hs : s.status = .running) (hz : s.pc ≠ retSentinel)
    (ha : accessOk s.config s.pc .read = true) (hi : decodeWord s.config.branchMask (s.wordAt s.pc) = .ok i) :
    step s = runInstr i s := by
  have hr : memRead s s.pc = .ok (s.wordAt s.pc) := (memRead_ok_iff _ _ _).mpr ⟨ha, rfl⟩
  unfold step loopStep fetchExecute
  simp only [hs, if_neg hz, hr, hi]

/-- The outcome of a run instruction, with the loop's test written out. -/
theorem runInstr_eq (i : Instr) (s : State) :
    runInstr i s =
      match exec i (s.countFamily (familyOf i)) with
      | .next t => .next (if t.pc = retSentinel then t.setStatus .done else t)
      | .fault f => .fault f
      | .refused r => .refused r := by
  unfold runInstr settleOutcome State.settle
  cases exec i (s.countFamily (familyOf i)) <;> rfl

@[simp] theorem status_settle (s : State) : s.settle.status = if s.pc = retSentinel then .done else s.status := by
  unfold State.settle; split <;> rfl

end Sys2Proof.Machine
end

