-- ==== Sys2Proof/Tests/Slice0.lean ====
section
/-! SUPPORT. The package's own tests. Words and results come from the spec: the encodings of spec/30_encoding.md and the vectors
of spec/95_test_vectors.md, named beside each test; then one witness for every statement that has hypotheses. -/

open Sys2Proof Sys2Proof.Machine

namespace Sys2Proof.Tests

/-! ### Small states -/

/-- The conventions of 95_test_vectors.md section 0: the valid bytes are the instruction word, the data block and the stack. -/
def vectorConfig : Config :=
  { referenceConfig with regions := [⟨0x8000, 4, true, false⟩, ⟨0x20000, 16, true, true⟩] }

/-- Registers given a list of values. -/
def setRegs (s : State) : List (Reg × Word) → State
  | [] => s
  | (r, v) :: l => setRegs (s.setReg r v) l

/-- Memory given a list of words. -/
def setWords (m : Memory) : List (Word × Word) → Memory
  | [] => m
  | (a, v) :: l => setWords (m.writeWord a v) l

/-- The start state of a vector: a word at `0x8000`, the program counter there, the registers listed, the words listed. -/
def start (w : Word) (regs : List (Reg × Word)) (words : List (Word × Word) := []) : State :=
  setRegs
    { State.reset with
      config := vectorConfig
      mem := setWords [] ((0x8000#32, w) :: words) }
    ((Reg.pc, 0x8000#32) :: regs)

/-- A next state with a property. -/
def after (o : Host.Outcome State Fault Refusal) (p : State → Bool) : Bool :=
  match o with
  | .next t => p t
  | .fault _ => false
  | .refused _ => false

/-- A stop with a fault. -/
def stops (o : Host.Outcome State Fault Refusal) (f : Fault) : Bool :=
  match o with
  | .next _ => false
  | .fault g => g == f
  | .refused _ => false

/-- The counters of the vectors' last column: the reads and writes of the registers, `FR`, `FW`. -/
def counts (t : State) (rr rw : List Reg) (fr fw : Nat) : Bool :=
  decide (∀ r : Reg, t.reads r = rr.count r ∧ t.writes r = rw.count r) && t.telemetry.flagReads == fr &&
    t.telemetry.flagWrites == fw

/-! ### Every constructor's word, written out from its encoding (R72 to R76, R82) -/

/-- R72: `1110 00 0 1101 0 0000 0000 00011 00 0 0001`. -/
theorem test_decode_mov : decodeWord .m111 0b1110_00_0_1101_0_0000_0000_00011_00_0_0001#32 =
    .ok (.mov ⟨14#4, 0#2, false, 0#4, 0#4, .reg ⟨1#4, .lsl, .imm 3#5⟩⟩) := by decide

/-- R72: immediate form, `1110 00 1 0100 0 0001 0000 0000 00000101`. -/
theorem test_decode_add : decodeWord .m111 0b1110_00_1_0100_0_0001_0000_0000_00000101#32 =
    .ok (.add ⟨14#4, 0#2, false, 1#4, 0#4, .imm 0#4 5#8⟩) := by decide

/-- R72: register amount with `w[7] = 0`, `1110 00 0 0010 1 0001 0000 0011 0 10 1 0010`. -/
theorem test_decode_sub : decodeWord .m111 0b1110_00_0_0010_1_0001_0000_0011_0_10_1_0010#32 =
    .ok (.sub ⟨14#4, 0#2, true, 1#4, 0#4, .reg ⟨2#4, .asr, .reg 3#4 false⟩⟩) := by decide

theorem test_decode_cmp : decodeWord .m111 0b1110_00_0_1010_1_0001_0000_00000_00_0_0010#32 =
    .ok (.cmp ⟨14#4, 0#2, true, 1#4, 0#4, .reg ⟨2#4, .lsl, .imm 0#5⟩⟩) := by decide

theorem test_decode_and : decodeWord .m111 0b1110_00_0_0000_0_0001_0000_00000_00_0_0010#32 =
    .ok (.and ⟨14#4, 0#2, false, 1#4, 0#4, .reg ⟨2#4, .lsl, .imm 0#5⟩⟩) := by decide

theorem test_decode_eor : decodeWord .m111 0b1110_00_1_0001_0_0001_0010_0000_11111111#32 =
    .ok (.eor ⟨14#4, 0#2, false, 1#4, 2#4, .imm 0#4 255#8⟩) := by decide

theorem test_decode_rsb : decodeWord .m111 0b1110_00_1_0011_0_0001_0010_1111_00000001#32 =
    .ok (.rsb ⟨14#4, 0#2, false, 1#4, 2#4, .imm 15#4 1#8⟩) := by decide

theorem test_decode_adc : decodeWord .m111 0b0000_00_0_0101_1_0001_0010_11111_01_0_0011#32 =
    .ok (.adc ⟨0#4, 0#2, true, 1#4, 2#4, .reg ⟨3#4, .lsr, .imm 31#5⟩⟩) := by decide

theorem test_decode_sbc : decodeWord .m111 0b1110_00_0_0110_0_0001_0010_0100_1_11_1_0011#32 =
    .ok (.sbc ⟨14#4, 0#2, false, 1#4, 2#4, .reg ⟨3#4, .ror, .reg 4#4 true⟩⟩) := by decide

theorem test_decode_rsc : decodeWord .m111 0b1110_10_0_0111_0_0001_0010_00001_00_0_0011#32 =
    .ok (.rsc ⟨14#4, 2#2, false, 1#4, 2#4, .reg ⟨3#4, .lsl, .imm 1#5⟩⟩) := by decide

theorem test_decode_tst : decodeWord .m111 0b1110_11_1_1000_0_0000_0000_0000_00000000#32 =
    .ok (.tst ⟨14#4, 3#2, false, 0#4, 0#4, .imm 0#4 0#8⟩) := by decide

/-- OUT-8: ARM's `BLX lr`, one bit from the Branch-and-Exchange pattern. -/
theorem test_decode_teq : decodeWord .m111 0b1110_00_0_1001_0_1111_1111_1111_0_01_1_1110#32 =
    .ok (.teq ⟨14#4, 0#2, false, 15#4, 15#4, .reg ⟨14#4, .lsr, .reg 15#4 false⟩⟩) := by decide

theorem test_decode_cmn : decodeWord .m111 0b1110_00_1_1011_1_0001_0000_0000_00000001#32 =
    .ok (.cmn ⟨14#4, 0#2, true, 1#4, 0#4, .imm 0#4 1#8⟩) := by decide

theorem test_decode_orr : decodeWord .m111 0b1110_00_1_1100_0_0000_0000_0000_00000001#32 =
    .ok (.orr ⟨14#4, 0#2, false, 0#4, 0#4, .imm 0#4 1#8⟩) := by decide

theorem test_decode_bic : decodeWord .m111 0b1110_00_0_1110_1_0001_0000_0000_1_01_1_0000#32 =
    .ok (.bic ⟨14#4, 0#2, true, 1#4, 0#4, .reg ⟨0#4, .lsr, .reg 0#4 true⟩⟩) := by decide

theorem test_decode_mvn : decodeWord .m111 0b1110_00_0_1111_0_0000_0000_00000_00_0_0001#32 =
    .ok (.mvn ⟨14#4, 0#2, false, 0#4, 0#4, .reg ⟨1#4, .lsl, .imm 0#5⟩⟩) := by decide

/-- R73: `1110 000000 1 0 0001 0011 0010 1001 0100`: A = 1, rd = 1, rn = 3, rs = 2, rm = 4. -/
theorem test_decode_mul : decodeWord .m111 0b1110_000000_1_0_0001_0011_0010_1001_0100#32 =
    .ok (.mul ⟨14#4, true, false, 1#4, 3#4, 2#4, 4#4⟩) := by decide

/-- R74. -/
theorem test_decode_bx : decodeWord .m111 0b1110_0001_0010_1111_1111_1111_0001_1110#32 = .ok (.bx ⟨14#4, 14#4⟩) := by decide

/-- R75: `1110 01 0 P=1 U=0 B=1 W=0 L=1 0010 0011 000000000100`. -/
theorem test_decode_ldr : decodeWord .m111 0b1110_01_0_1_0_1_0_1_0010_0011_000000000100#32 =
    .ok (.ldr ⟨14#4, true, false, true, false, 2#4, 3#4, .imm 4#12⟩) := by decide

/-- R75: register offset, `1110 01 1 P=0 U=1 B=0 W=1 L=0 0010 0011 00010 00 0 0110`. -/
theorem test_decode_str : decodeWord .m111 0b1110_01_1_0_1_0_1_0_0010_0011_00010_00_0_0110#32 =
    .ok (.str ⟨14#4, false, true, false, true, 2#4, 3#4, .reg ⟨6#4, .lsl, .imm 2#5⟩⟩) := by decide

/-- R76: `0001 101 0 imm24`. -/
theorem test_decode_b : decodeWord .m111 0b0001_101_0_111111111111111111111110#32 =
    .ok (.b ⟨1#4, false, 0xFFFFFE#24⟩) := by decide

theorem test_decode_bl : decodeWord .m111 0b1110_101_1_000000000000000000010000#32 =
    .ok (.bl ⟨14#4, false, 0x10#24⟩) := by decide

/-- R79: under the alternative mask ARM's `SWI` word is a BL with `w[26] = 1`. -/
theorem test_decode_bl_mask : decodeWord .m101 0b1110_111_1_000000000000000000000000#32 =
    .ok (.bl ⟨14#4, true, 0#24⟩) := by decide

/-- R70: an instruction is four bytes. -/
theorem test_decode_short : decode .m111 [0x1E#8, 0xFF#8, 0x2F#8] = .error .tooFewBytes := by decide

/-! ### WellFormed: an ill-formed term for each check -/

theorem test_illformed_branch_class :
    WellFormed .m111 (.mov ⟨14#4, 2#2, false, 0#4, 0#4, .imm 0#4 0#8⟩) = false := by decide

theorem test_illformed_branch_class_mask :
    WellFormed .m101 (.mov ⟨14#4, 3#2, false, 0#4, 0#4, .imm 0#4 0#8⟩) = false := by decide

theorem test_illformed_sdt_class :
    WellFormed .m111 (.add ⟨14#4, 1#2, false, 0#4, 0#4, .imm 0#4 0#8⟩) = false := by decide

theorem test_illformed_bx_pattern :
    WellFormed .m111 (.teq ⟨14#4, 0#2, false, 15#4, 15#4, .reg ⟨14#4, .lsl, .reg 15#4 false⟩⟩) = false := by decide

theorem test_illformed_mul_pattern :
    WellFormed .m111 (.and ⟨14#4, 0#2, false, 1#4, 0#4, .reg ⟨2#4, .lsl, .reg 3#4 true⟩⟩) = false ∧
      WellFormed .m111 (.eor ⟨14#4, 0#2, false, 1#4, 0#4, .reg ⟨2#4, .lsl, .reg 3#4 true⟩⟩) = false := by decide

theorem test_illformed_branch_bit26 : WellFormed .m111 (.b ⟨14#4, true, 0#24⟩) = false := by decide

/-! ### One step of each instruction (95_test_vectors.md section 2) -/

/-- DP-14: `MOV r0, r1, LSL r2`, the amount is the low byte of `x[2]`, the stand-in multiplies by 6. -/
theorem test_mov_shift : after (step (start 0xE1A00211#32 [(1#4, 5#32), (2#4, 0x103#32)]))
    (fun t => t.reg 0#4 == 0x1E#32 && t.pc == 0x8004#32 && counts t [1#4, 2#4, 15#4] [0#4, 15#4] 0 0) = true := by decide

/-- DP-32: `MOV pc, lr`, the write is followed by `+ 4`. -/
theorem test_mov_pc : after (step (start 0xE1A0F00E#32 [(14#4, 0x8100#32)]))
    (fun t => t.pc == 0x8104#32 && counts t [14#4, 15#4] [15#4, 15#4] 0 0) = true := by decide

/-- DP-19: `ADD r0, r1, r2` wraps. -/
theorem test_add_wraps : after (step (start 0xE0810002#32 [(1#4, 0xFFFFFFFF#32), (2#4, 1#32), (0#4, 9#32)]))
    (fun t => t.reg 0#4 == 0#32 && t.flags == 0#32 && counts t [1#4, 2#4, 15#4] [0#4, 15#4] 0 0) = true := by decide

/-- DP-34: `ADD pc, pc, #4`. -/
theorem test_add_pc : after (step (start 0xE28FF004#32 []))
    (fun t => t.pc == 0x8008#32 && counts t [15#4, 15#4] [15#4, 15#4] 0 0) = true := by decide

/-- DP-24: `SUBS r0, r1, r2` leaves the flags. -/
theorem test_sub_s : after (step ((start 0xE0510002#32 [(1#4, 5#32), (2#4, 5#32)]).setFlags 0xC#32))
    (fun t => t.reg 0#4 == 0#32 && t.flags == 0xC#32) = true := by decide

/-- DP-22: `SUB r1, r1, #1` from 0. -/
theorem test_sub_wraps : after (step (start 0xE2411001#32 []))
    (fun t => t.reg 1#4 == 0xFFFFFFFF#32 && counts t [1#4, 15#4] [1#4, 15#4] 0 0) = true := by decide

/-- DP-29: on overflow the wrapped sign decides. -/
theorem test_cmp_overflow : after (step ((start 0xE1510002#32 [(1#4, 0x7FFFFFFF#32), (2#4, 0xFFFFFFFF#32)]).setFlags 4#32))
    (fun t => t.flags == 0xB#32 && counts t [1#4, 2#4, 15#4] [15#4] 0 1) = true := by decide

/-- DP-31: `CMP r0, #0`. -/
theorem test_cmp_equal : after (step ((start 0xE3500000#32 []).setFlags 0xC#32))
    (fun t => t.flags == 0#32 && counts t [0#4, 15#4] [15#4] 0 1) = true := by decide

/-- DP-37: AND is a no-op. -/
theorem test_and : after (step (start 0xE0010002#32 [(1#4, 0xF0#32), (2#4, 0x3C#32)]))
    (fun t => t.reg 0#4 == 0#32 && t.pc == 0x8004#32 && counts t [2#4, 15#4] [15#4] 0 0) = true := by decide

/-- EOR is a no-op (R105). -/
theorem test_eor : after (step (start 0xE0210002#32 [(1#4, 0xF0#32), (2#4, 0x3C#32)]))
    (fun t => t.reg 0#4 == 0#32 && t.pc == 0x8004#32 && counts t [2#4, 15#4] [15#4] 0 0) = true := by decide

/-- RSB is a no-op (R105), its register amount read all the same (R111). -/
theorem test_rsb : after (step (start 0xE0610312#32 [(1#4, 1#32), (2#4, 2#32)]))
    (fun t => t.reg 0#4 == 0#32 && counts t [2#4, 3#4, 15#4] [15#4] 0 0) = true := by decide

/-- ADC is a no-op (R105). -/
theorem test_adc : after (step (start 0xE0B10002#32 [(1#4, 1#32), (2#4, 2#32)]))
    (fun t => t.reg 0#4 == 0#32 && t.flags == 0#32 && counts t [2#4, 15#4] [15#4] 0 0) = true := by decide

/-- SBC is a no-op (R105). -/
theorem test_sbc : after (step (start 0xE0D10002#32 [(1#4, 1#32), (2#4, 2#32)]))
    (fun t => t.reg 0#4 == 0#32 && t.flags == 0#32 && counts t [2#4, 15#4] [15#4] 0 0) = true := by decide

/-- RSC is a no-op (R105). -/
theorem test_rsc : after (step (start 0xE0F10002#32 [(1#4, 1#32), (2#4, 2#32)]))
    (fun t => t.reg 0#4 == 0#32 && t.flags == 0#32 && counts t [2#4, 15#4] [15#4] 0 0) = true := by decide

/-- DP-38: TST leaves the flags. -/
theorem test_tst : after (step ((start 0xE1110002#32 [(1#4, 1#32), (2#4, 1#32)]).setFlags 0xB#32))
    (fun t => t.flags == 0xB#32 && counts t [2#4, 15#4] [15#4] 0 0) = true := by decide

/-- OUT-8: the word `BLX lr` is a TEQ no-op. -/
theorem test_teq : after (step (start 0xE12FFF3E#32 [(14#4, 0x9000#32)]))
    (fun t => t.pc == 0x8004#32 && counts t [14#4, 15#4, 15#4] [15#4] 0 0) = true := by decide

/-- CMN leaves the flags (R105). -/
theorem test_cmn : after (step ((start 0xE1710002#32 [(1#4, 1#32)]).setFlags 0xB#32))
    (fun t => t.flags == 0xB#32 && counts t [2#4, 15#4] [15#4] 0 0) = true := by decide

/-- DP-40: ORR is a no-op. -/
theorem test_orr : after (step (start 0xE3800001#32 [(0#4, 2#32)]))
    (fun t => t.reg 0#4 == 2#32 && counts t [15#4] [15#4] 0 0) = true := by decide

/-- OUT-9: the word `LDRH r0, [r1]` is a BIC no-op. -/
theorem test_bic : after (step (start 0xE1D100B0#32 [(1#4, 0x20000#32)]))
    (fun t => t.pc == 0x8004#32 && counts t [0#4, 0#4, 15#4] [15#4] 0 0) = true := by decide

/-- DP-39: MVN is a no-op. -/
theorem test_mvn : after (step (start 0xE1E00001#32 []))
    (fun t => t.reg 0#4 == 0#32 && counts t [1#4, 15#4] [15#4] 0 0) = true := by decide

/-- MUL-5: the sign is bit 31 of the truncated product. -/
theorem test_mul_negative : after (step (start 0xE0100291#32 [(1#4, 0x10000#32), (2#4, 0x8000#32)]))
    (fun t => t.reg 0#4 == 0x80000000#32 && t.pc == 0x8004#32 && t.flags == 4#32 && counts t [1#4, 2#4] [0#4] 0 0) = true := by
  decide

/-- MUL-9: the accumulate bit is not read. -/
theorem test_mul_accumulate : after (step (start 0xE0203291#32 [(1#4, 6#32), (2#4, 7#32), (3#4, 0x64#32)]))
    (fun t => t.reg 0#4 == 0x2A#32 && counts t [1#4, 2#4] [0#4] 0 0) = true := by decide

/-- BX-3: bit 0 of the target is kept. -/
theorem test_bx_odd : after (step (start 0xE12FFF13#32 [(3#4, 0x9001#32)]))
    (fun t => t.pc == 0x9001#32 && t.status == .running && counts t [3#4] [15#4] 0 0) = true := by decide

/-- BX-1: `BX lr` with `x[14] = 0` ends the run. -/
theorem test_bx_ends : after (step (start 0xE12FFF1E#32 []))
    (fun t => t.pc == 0#32 && t.status == .done && counts t [14#4] [15#4] 0 0) = true := by decide

/-- SDT-10: a load into its own base, the undo subtracts the offset. -/
theorem test_ldr_undo : after (step (start 0xE5911004#32 [(1#4, 0x20000#32)] [(0x20004#32, 0x100#32)]))
    (fun t => t.reg 1#4 == 0xFC#32 && counts t [15#4] [1#4, 15#4] 0 0) = true := by decide

/-- SDT-15: a scaled register offset. -/
theorem test_ldr_scaled : after (step (start 0xE7910102#32 [(1#4, 0x20000#32), (2#4, 2#32)] [(0x20008#32, 0x33333333#32)]))
    (fun t => t.reg 0#4 == 0x33333333#32 && t.reg 1#4 == 0x20000#32 && counts t [2#4, 15#4] [0#4, 15#4] 0 0) = true := by decide

/-- SDT-7: `STR r0, [r1, #-4]!`. -/
theorem test_str_push : after (step (start 0xE5210004#32 [(0#4, 0xAB#32), (1#4, 0x20008#32)]))
    (fun t => t.wordAt 0x20004#32 == 0xAB#32 && t.reg 1#4 == 0x20004#32 && counts t [0#4, 15#4] [1#4, 15#4] 0 0) = true := by
  decide

/-- SDT-25: a store to an address that is not valid. -/
theorem test_str_fault : stops (step (start 0xE5810000#32 [(0#4, 1#32), (1#4, 0x400000#32)]))
    (.memoryFault 0x400000#32 .write) = true := by decide

/-- B-23: when the flag register is `0xE`, the always branch is taken by case 3. -/
theorem test_b_case3 : after (step ((start 0xEA000000#32 []).setFlags 0xE#32))
    (fun t => t.pc == 0x8008#32 && counts t [] [] 1 0) = true := by decide

/-- B-24: condition `1111` is not taken. -/
theorem test_b_nv : after (step (start 0xFA000000#32 []))
    (fun t => t.pc == 0x8004#32 && counts t [] [] 1 0) = true := by decide

/-- B-5: `BLEQ` links whatever the flags. -/
theorem test_bl_cond : after (step ((start 0x0B000010#32 []).setFlags 0xC#32))
    (fun t => t.reg 14#4 == 0x8004#32 && t.pc == 0x8048#32 && counts t [15#4] [14#4] 0 0) = true := by decide

/-- Section 1.4: a BL with offset `-2^25`. -/
theorem test_bl_back : after (step (start 0xEB800000#32 []))
    (fun t => t.reg 14#4 == 0x8004#32 && t.pc == 0xFE008008#32) = true := by decide

/-! ### The loop, the driver, reset -/

/-- SDT-26: a misaligned load. -/
theorem test_misaligned : stops (step (start 0xE5910002#32 [(1#4, 0x20000#32)])) (.memoryFault 0x20002#32 .read) = true := by
  decide

/-- RUN-1: an entry address of 0 fetches nothing. -/
theorem test_run_zero : emu 0 0#32 1 #v[0x1234#32, 0#32, 0#32, 0#32] State.reset = .result 0x1234#32 Telemetry.zero := by decide

/-- RUN-2, RUN-3. -/
theorem test_run_count : emu 1 0x8000#32 5 #v[0#32, 0#32, 0#32, 0#32] State.reset = .fatal (.badArgCount 5) ∧
    emu 1 0x8000#32 (-1) #v[0#32, 0#32, 0#32, 0#32] State.reset = .fatal (.badArgCount (-1)) := by decide

/-- RUN-5: a misaligned entry. -/
theorem test_run_misaligned : emu 1 0x8002#32 0 #v[0#32, 0#32, 0#32, 0#32] State.reset =
    .fatal (.memoryFault 0x8002#32 .read) := by decide

/-- R232: the initial stack pointer is one past the buffer's last byte. -/
theorem test_load_call : after (loadCall 0x8000#32 2 #v[7#32, 8#32, 9#32, 10#32] (resetState State.reset))
    (fun t => t.reg 0#4 == 7#32 && t.reg 1#4 == 8#32 && t.reg 2#4 == 0#32 && t.reg 13#4 == 0x104000#32 &&
      t.reg 14#4 == 0#32 && t.pc == 0x8000#32 && t.status == .running) = true := by decide

theorem test_first_step_after_reset :
    after (step (State.reset.withFetchWord 32 0xE3A000FF)) (fun t => t.reg 0#4 == 0xFF#32 && t.pc == 0x8004#32) = true := by decide

/-! ### Witnesses: what meets each statement's hypotheses -/

/-- A machine whose memory is the stack buffer alone. -/
def stackOnly : Config := { referenceConfig with regions := [] }

/-- The same with bytewise misaligned accesses. -/
def stackBytewise : Config := { stackOnly with misaligned := .bytewise }

/-- A state with the stack buffer alone and a base register `x[1]`. -/
def onStack (base : Word) : State :=
  { State.reset with config := stackOnly }.setReg 1#4 base

/-- An immediate operand 2. -/
def imm (r : BitVec 4) (v : Byte) : Operand2 := .imm r v

/-- Data Processing fields with destination 0 and first operand `x[1]`. -/
def dp (o : Operand2) : DpFields := ⟨14#4, 0#2, false, 1#4, 0#4, o⟩

/-- Operand 2 the register 2. -/
def reg2 : Operand2 := .reg ⟨2#4, .lsl, .imm 0#5⟩

/-- Load or store fields `x[0], [x[1], #4]` with the pre-index and write-back bits given. -/
def sdt (p w : Bool) : SdtFields := ⟨14#4, p, true, false, w, 1#4, 0#4, .imm 4#12⟩

/-- A state with the two operands of a comparison. -/
def pair (a b : Word) : State := (State.reset.setReg 1#4 a).setReg 2#4 b

theorem witness_ClassifierIsTotal :
    ((0xEF000000#32 >>> 25) &&& BClassMask.m111.bits ≠ 0b101#32 ∧ (0xEF000000#32).extractLsb' 26 2 ≠ 0b01#2 ∧
      (0xEF000000#32 >>> 4) &&& 0xFFFFFF#32 ≠ 0x12FFF1#32 ∧
      ¬ ((0xEF000000#32).extractLsb' 22 6 = 0#6 ∧ (0xEF000000#32).extractLsb' 4 4 = 0b1001#4)) ∧
    ((0x00400090#32 >>> 25) &&& BClassMask.m101.bits ≠ 0b101#32 ∧ (0x00400090#32).extractLsb' 26 2 ≠ 0b01#2 ∧
      (0x00400090#32 >>> 4) &&& 0xFFFFFF#32 ≠ 0x12FFF1#32 ∧
      ¬ ((0x00400090#32).extractLsb' 22 6 = 0#6 ∧ (0x00400090#32).extractLsb' 4 4 = 0b1001#4)) := by decide

/-- CL-21 to CL-23, and the branch pattern itself. -/
theorem witness_FamiliesByPattern :
    classify .m111 0x0E000000#32 = some .dataProcessing ∧ classify .m101 0x0E000000#32 = some .branch ∧
      classify .m101 0x0A000000#32 = some .branch ∧ classify .m111 0x06000010#32 = some .singleDataTransfer ∧
      classify .m111 0x012FFF10#32 = some .branchExchange ∧ classify .m111 0x00300090#32 = some .multiply ∧
      classify .m111 0x00400090#32 = some .dataProcessing := by decide

theorem witness_MaskReadingsAgree :
    (0xEA000000#32).extractLsb' 25 3 ≠ 0b111#3 ∧ (0xEC000000#32).extractLsb' 25 3 ≠ 0b111#3 ∧
      decodeWord .m101 0xEA000000#32 = decodeWord .m111 0xEA000000#32 := by decide

/-- One well-formed instruction of each family, the boundaries of the four patterns among them. -/
theorem witness_DecodeOfEncode :
    WellFormed .m111 (.mov (dp (imm 15#4 255#8))) = true ∧
      WellFormed .m111 (.teq ⟨14#4, 0#2, true, 15#4, 15#4, .reg ⟨14#4, .lsl, .reg 15#4 false⟩⟩) = true ∧
      WellFormed .m111 (.and ⟨14#4, 2#2, false, 1#4, 0#4, .reg ⟨2#4, .lsl, .reg 3#4 true⟩⟩) = true ∧
      WellFormed .m111 (.tst ⟨14#4, 3#2, false, 0#4, 0#4, imm 0#4 0#8⟩) = true ∧
      WellFormed .m111 (.mul ⟨0#4, true, true, 15#4, 15#4, 15#4, 15#4⟩) = true ∧ WellFormed .m111 (.bx ⟨0#4, 15#4⟩) = true ∧
      WellFormed .m111 (.ldr (sdt true false)) = true ∧ WellFormed .m111 (.str (sdt false true)) = true ∧
      WellFormed .m111 (.b ⟨1#4, false, 0#24⟩) = true ∧ WellFormed .m101 (.bl ⟨14#4, true, 0#24⟩) = true := by decide

theorem witness_DecodeReadsFourBytes : decodeWord .m111 0xE12FFF1E#32 = .ok (.bx ⟨14#4, 14#4⟩) ∧
    decode .m111 ([0x1E#8, 0xFF#8, 0x2F#8, 0xE1#8] ++ [7#8]) = .ok (.bx ⟨14#4, 14#4⟩, [7#8]) := by decide

/-- The four clauses: a zero rotate, each reading, and none given. -/
theorem witness_ImmediateOperandValues :
    (operand2Value State.reset (imm 0#4 255#8)).toNat = 255 ∧
      (operand2Value { State.reset with config := { referenceConfig with immRotate := some .ignore } } (imm 15#4 255#8)).toNat = 255 ∧
      operand2Value { State.reset with config := { referenceConfig with immRotate := some .ror } } (imm 1#4 2#8) = 0x80000000#32 ∧
      State.reset.config.immRotate = none := by decide

/-- Each clause at its boundary: amount 0 of a register, codes 01 and 11, amounts 1 and 31 of codes 00 and 10. -/
theorem witness_ShiftStandInValues :
    operand2Value (pair 0x100#32 5#32) (.reg ⟨2#4, .lsl, .reg 1#4 false⟩) = 5#32 ∧
      operand2Value (pair 0#32 5#32) (.reg ⟨2#4, .lsr, .imm 31#5⟩) = 5#32 ∧
      operand2Value (pair 0#32 5#32) (.reg ⟨2#4, .ror, .imm 1#5⟩) = 5#32 ∧
      operand2Value (pair 0#32 5#32) (.reg ⟨2#4, .lsl, .imm 31#5⟩) = 310#32 ∧
      operand2Value (pair 0#32 0x80000001#32) (.reg ⟨2#4, .lsl, .imm 1#5⟩) = 2#32 ∧
      operand2Value (pair 0#32 7#32) (.reg ⟨2#4, .asr, .imm 1#5⟩) = 3#32 ∧
      operand2Value (pair 0x1FF#32 0xFFFFFFFF#32) (.reg ⟨2#4, .asr, .reg 1#4 true⟩) = 0x808080#32 := by decide

/-- The three clauses, at equality, at a difference of 1, of -1, and where the difference wraps. -/
theorem witness_CmpCompletes :
    (pair 7#32 7#32).reg 1#4 = operand2Value (pair 7#32 7#32) reg2 ∧
      0 < ((pair 8#32 7#32).reg 1#4 - operand2Value (pair 8#32 7#32) reg2).toInt ∧
      ((pair 7#32 8#32).reg 1#4 - operand2Value (pair 7#32 8#32) reg2).toInt < 0 ∧
      ((pair 0x7FFFFFFF#32 0xFFFFFFFF#32).reg 1#4 - operand2Value (pair 0x7FFFFFFF#32 0xFFFFFFFF#32) reg2).toInt < 0 := by decide

/-- The two ends of the range of a difference that does not overflow. -/
theorem witness_CmpIsSignedComparison :
    ((pair 0x7FFFFFFF#32 0#32).reg 1#4).toInt - (operand2Value (pair 0x7FFFFFFF#32 0#32) reg2).toInt = 2 ^ 31 - 1 ∧
      ((pair 0x80000000#32 0#32).reg 1#4).toInt - (operand2Value (pair 0x80000000#32 0#32) reg2).toInt = -(2 ^ 31) := by decide

theorem witness_NoOpOpcodesComplete :
    Instr.mvn (dp reg2) ∈ [Instr.and (dp reg2), .eor (dp reg2), .rsb (dp reg2), .adc (dp reg2), .sbc (dp reg2), .rsc (dp reg2),
      .tst (dp reg2), .teq (dp reg2), .cmn (dp reg2), .orr (dp reg2), .bic (dp reg2), .mvn (dp reg2)] := by decide

/-- The last word of the stack buffer, by a base 4 below it. -/
theorem witness_LdrCompletes :
    accessOk (onStack 0x103FF8#32).config (sdtAddress (sdt true false) (onStack 0x103FF8#32)) .read = true ∧
      after (exec (.ldr (sdt true false)) (onStack 0x103FF8#32)) (fun t => t.reg 1#4 == 0x103FF8#32 && t.reg 0#4 == 0#32) = true := by
  decide

/-- The first word of the stack buffer, base updated. -/
theorem witness_StrCompletes :
    accessOk (onStack 0xFFFFC#32).config (sdtAddress (sdt true true) (onStack 0xFFFFC#32)) .write = true ∧
      after (exec (.str (sdt true true)) ((onStack 0xFFFFC#32).setReg 0#4 0xAB#32))
        (fun t => t.reg 1#4 == 0x100000#32 && t.wordAt 0x100000#32 == 0xAB#32) = true := by decide

/-- One past the stack buffer, and a misaligned address in it. -/
theorem witness_TransferFaults :
    accessOk (onStack 0x104000#32).config (sdtAddress (sdt false false) (onStack 0x104000#32)) .read = false ∧
      accessOk (onStack 0x100002#32).config (sdtAddress (sdt false false) (onStack 0x100002#32)) .write = false ∧
      stops (exec (.ldr (sdt false false)) (onStack 0x104000#32)) (.memoryFault 0x104000#32 .read) = true ∧
      stops (exec (.str (sdt false false)) (onStack 0x100002#32)) (.memoryFault 0x100002#32 .write) = true := by decide

theorem witness_LoadIntoBaseIsUndone :
    let f : SdtFields := ⟨14#4, true, true, false, false, 1#4, 1#4, .imm 4#12⟩
    let s := onStack 0x100000#32
    f.rd = f.rn ∧ f.rn ≠ Reg.pc ∧ f.p = true ∧ f.w = false ∧
      accessOk s.config (s.reg f.rn + sdtOffsetValue s f.u f.offset) .read = true := by decide

/-- The not-equal condition, with the flag register 0 and not 0. -/
theorem witness_BranchNotEqual :
    (BranchFields.mk 1#4 false 0#24).cond = 0b0001#4 ∧
      after (exec (.b ⟨1#4, false, 0#24⟩) State.reset) (fun t => t.pc == 4#32) = true ∧
      after (exec (.b ⟨1#4, false, 0#24⟩) (State.reset.setFlags 4#32)) (fun t => t.pc == 8#32) = true := by decide

/-- Conditions 0 and 15 with the flag register at the same number. -/
theorem witness_BranchConditionIsFlags :
    (0#4 ≠ 0b0001#4 ∧ (0#4).toNat = State.reset.flags.toNat) ∧
      (15#4 ≠ 0b0001#4 ∧ (15#4).toNat = (State.reset.setFlags 15#32).flags.toNat) := by decide

/-- Condition 15, and condition 0 with the flag register 16, which has the same low four bits. -/
theorem witness_BranchNotTaken :
    (15#4 ≠ 0b0001#4 ∧ (15#4).toNat ≠ State.reset.flags.toNat ∧ 15#4 ≠ 0b1110#4) ∧
      (0#4 ≠ 0b0001#4 ∧ (0#4).toNat ≠ (State.reset.setFlags 16#32).flags.toNat ∧ 0#4 ≠ 0b1110#4) := by decide

theorem witness_BranchAlways :
    (BranchFields.mk 14#4 false 0#24).cond = 0b1110#4 ∧
      after (exec (.b ⟨14#4, false, 0#24⟩) State.reset) (fun t => t.telemetry.flagReads == 0) = true ∧
      after (exec (.b ⟨14#4, false, 0#24⟩) (State.reset.setFlags 0xE#32)) (fun t => t.telemetry.flagReads == 1) = true := by decide

theorem witness_ConditionTable :
    (State.reset.setFlags 0xC#32).flags ∈ [0x0#32, 0xC#32, 0xB#32, 0x4#32] ∧
      branchTarget State.reset.pc 0#24 ≠ State.reset.pc + 4#32 := by decide

/-- The port at the edges of the stack buffer, at misaligned addresses and at the top of the address space. -/
theorem witness_PortAdmits :
    accessOk stackOnly 0xFFFFC#32 .read = false ∧ accessOk stackOnly 0x100000#32 .write = true ∧
      accessOk stackOnly 0x103FFC#32 .read = true ∧ accessOk stackOnly 0x104000#32 .read = false ∧
      accessOk stackOnly 0x100001#32 .read = false ∧ accessOk stackBytewise 0x100001#32 .read = true ∧
      accessOk stackBytewise 0x103FFD#32 .read = false ∧
      accessOk { referenceConfig with misaligned := .bytewise } 0xFFFFFFFD#32 .read = true ∧
      accessOk vectorConfig 0x8000#32 .read = true ∧ accessOk vectorConfig 0x8000#32 .write = false := by decide

theorem witness_ReadIsLittleEndian :
    memRead (start 0x12345678#32 []) 0x8000#32 = .ok 0x12345678#32 ∧ (start 0x12345678#32 []).byteAt 0x8000#32 = 0x78#8 := by decide

theorem witness_StoreThenLoad :
    ∃ t, memWrite State.reset 0xFFFFFFFC#32 0x12345678#32 = .ok t ∧ accessOk State.reset.config 0xFFFFFFFC#32 .read = true :=
  ⟨_, rfl, by decide⟩

theorem witness_StoreKeepsCanonicalForm :
    State.reset.mem.wf ∧ ∃ t, memWrite State.reset 0x8000#32 0x00FF0001#32 = .ok t ∧ t.mem.length = 2 :=
  ⟨wf_nil, _, rfl, by decide⟩

theorem witness_StepRunsTheDecodedInstruction :
    let s := start 0xE12FFF1E#32 []
    s.status = .running ∧ s.pc ≠ 0#32 ∧ accessOk s.config s.pc .read = true ∧
      decode s.config.branchMask [s.byteAt s.pc, s.byteAt (s.pc + 1#32), s.byteAt (s.pc + 2#32), s.byteAt (s.pc + 3#32)] =
        .ok (.bx ⟨14#4, 14#4⟩, []) := by decide

/-- RUN-6. -/
theorem witness_FetchFaults :
    let s := (start 0#32 []).setPc 0x9000#32
    s.status = .running ∧ s.pc ≠ 0#32 ∧ accessOk s.config s.pc .read = false := by decide

theorem witness_LoopEndsAtTheSentinel : State.reset.status = .running ∧ State.reset.pc = 0#32 := by decide

theorem witness_EndedRunsDoNotStep :
    (State.reset.setStatus .done).status = .done ∧
      (State.reset.endFatal (.memoryFault 2#32 .read)).status = .fatal (.memoryFault 2#32 .read) := by decide

/-- A step that ends the run, and one that does not. -/
theorem witness_DoneExactlyAtZero :
    (∃ t, step (start 0xE12FFF1E#32 []) = .next t ∧ t.status = .done ∧ t.pc = 0#32) ∧
      ∃ t, step (start 0xEAFFFFFE#32 []) = .next t ∧ t.status = .running ∧ t.pc = 0x8000#32 :=
  ⟨⟨_, rfl, by decide, by decide⟩, ⟨_, rfl, by decide, by decide⟩⟩

theorem witness_OnlyMemoryFaultsStopARun : (start 0xE5910002#32 []).status = .running := by decide

/-- The invariant holds where an instruction writes memory and the flags hold a sentinel. -/
theorem witness_StepKeepsInvariant :
    (start 0xE3500000#32 [(0#4, 1#32)]).Inv ∧
      ∃ t, step (start 0xE3500000#32 [(0#4, 1#32)]) = .next t ∧ t.flags = 0xC#32 :=
  ⟨⟨by decide, by decide, by decide, fun h => absurd h (by decide)⟩, _, rfl, by decide⟩

theorem witness_TelemetryNeverConsulted :
    SameButTelemetry (start 0xE1A00001#32 []) (start 0xE1A00001#32 []).countFlagRead ∧
      (start 0xE1A00001#32 []) ≠ (start 0xE1A00001#32 []).countFlagRead :=
  ⟨⟨rfl, rfl, rfl, rfl, rfl⟩, by decide⟩

/-- A CMP and a MUL that change the flags. -/
theorem witness_FlagsWrittenOnlyByCmpAndMul :
    (∃ t, exec (.cmp (dp reg2)) (pair 8#32 7#32) = .next t ∧ t.flags ≠ (pair 8#32 7#32).flags) ∧
      ∃ t, exec (.mul ⟨14#4, false, true, 0#4, 0#4, 2#4, 1#4⟩) (pair 0xFFFFFFFF#32 1#32) = .next t ∧ t.flags = 4#32 :=
  ⟨⟨_, rfl, by decide⟩, ⟨_, rfl, by decide⟩⟩

theorem witness_OnlyStrWritesMemory :
    (∃ t, exec (.ldr (sdt true false)) (onStack 0x100000#32) = .next t) ∧ ∀ f, Instr.ldr (sdt true false) ≠ .str f :=
  ⟨⟨_, rfl⟩, fun _ => Instr.noConfusion⟩

theorem witness_StepKeepsParameters : ∃ t, step (start 0xE1A00001#32 []) = .next t ∧ t.config = vectorConfig :=
  ⟨_, rfl, by decide⟩

theorem witness_FlagCounts :
    (∃ t, exec (.cmp (dp reg2)) (pair 8#32 7#32) = .next t ∧ t.telemetry.flagWrites = 1) ∧
      ∃ t, exec (.b ⟨1#4, false, 0#24⟩) State.reset = .next t ∧ t.telemetry.flagReads ≠ State.reset.telemetry.flagReads :=
  ⟨⟨_, rfl, by decide⟩, ⟨_, rfl, by decide⟩⟩

/-- One instruction of each counter's families. -/
theorem witness_StepCountsItsFamily :
    (∃ t, decodeWord .m111 ((start 0xE5910000#32 [(1#4, 0x20000#32)]).wordAt 0x8000#32) =
        .ok (.ldr ⟨14#4, true, true, false, false, 1#4, 0#4, .imm 0#12⟩) ∧
      classify .m111 ((start 0xE5910000#32 [(1#4, 0x20000#32)]).wordAt 0x8000#32) = some .singleDataTransfer ∧
      step (start 0xE5910000#32 [(1#4, 0x20000#32)]) = .next t ∧ t.telemetry.memoryOps = 1) ∧
    (∃ t, classify .m111 0xE0000291#32 = some .multiply ∧ step (start 0xE0000291#32 []) = .next t ∧ t.telemetry.computeOps = 1) ∧
    (∃ t, classify .m111 0xE1A00001#32 = some .dataProcessing ∧ step (start 0xE1A00001#32 []) = .next t ∧
      t.telemetry.computeOps = 1) ∧
    (∃ t, classify .m111 0xE12FFF1E#32 = some .branchExchange ∧ step (start 0xE12FFF1E#32 []) = .next t ∧
      t.telemetry.branchOps = 1) ∧
    ∃ t, classify .m111 0xEB000000#32 = some .branch ∧ step (start 0xEB000000#32 []) = .next t ∧ t.telemetry.branchOps = 1 :=
  ⟨⟨_, by decide, by decide, rfl, by decide⟩, ⟨_, by decide, rfl, by decide⟩, ⟨_, by decide, rfl, by decide⟩,
    ⟨_, by decide, rfl, by decide⟩, ⟨_, by decide, rfl, by decide⟩⟩

theorem witness_CountersNeverDecrease : ∃ t, step (start 0xE1A00001#32 []) = .next t ∧ t.reads 1#4 = 1 :=
  ⟨_, rfl, by decide⟩

/-- Members of the two lists, and instructions with a field set that no unit reads: cond, `w[7]` of a register amount, `w[26]`. -/
theorem witness_UnreadFieldsHaveNoEffect :
    (Instr.mvn ∈ [Instr.mov, Instr.mvn] ∧ Instr.str ∈ [Instr.ldr, Instr.str]) ∧
      after (exec (.mov { dp (imm 0#4 1#8) with cond := 15#4 }) State.reset) (fun t => t.reg 0#4 == 1#32) = true ∧
      after (exec (.mov (dp (.reg ⟨2#4, .lsl, .reg 1#4 true⟩))) (pair 3#32 5#32)) (fun t => t.reg 0#4 == 30#32) = true ∧
      after (exec (.ldr { sdt true false with offset := .reg ⟨2#4, .lsl, .reg 3#4 true⟩ }) (onStack 0x100000#32))
        (fun t => t.pc == 4#32) = true ∧
      after (exec (.b ⟨14#4, true, 0#24⟩) State.reset) (fun t => t.pc == 8#32) = true ∧
      after (exec (.bl ⟨0#4, true, 0#24⟩) State.reset) (fun t => t.pc == 8#32 && t.reg 14#4 == 4#32) = true :=
  ⟨⟨List.mem_cons_of_mem _ (List.mem_cons_self ..), List.mem_cons_of_mem _ (List.mem_cons_self ..)⟩, by decide⟩

theorem witness_ResetIsAllZero : inStack State.reset.config 0x103FFF#32 = true ∧ inStack State.reset.config 0x104000#32 = false := by
  decide

/-- The last byte of the stack buffer and the byte after it. -/
theorem witness_ResetStateZeroes :
    let s := { State.reset with mem := setWords [] [(0x103FFC#32, 0xFFFFFFFF#32), (0x104000#32, 0xFFFFFFFF#32)] }
    s.mem.wf ∧ (resetState s).byteAt 0x103FFF#32 = 0#8 ∧ (resetState s).byteAt 0x104000#32 = 0xFF#8 := by decide

/-- Counts 0 and 4. -/
theorem witness_LoadCallLoads :
    after (loadCall 0x8000#32 0 #v[1#32, 2#32, 3#32, 4#32] State.reset) (fun t => t.reg 0#4 == 0#32 && t.reg 3#4 == 0#32) = true ∧
      after (loadCall 0x8000#32 4 #v[1#32, 2#32, 3#32, 4#32] State.reset) (fun t => t.reg 0#4 == 1#32 && t.reg 3#4 == 4#32) = true := by
  decide

theorem witness_BadArgumentCountIsFatal : ((-1 : Int) < 0 ∨ 4 < (-1 : Int)) ∧ ((5 : Int) < 0 ∨ 4 < (5 : Int)) := by decide

/-- A call of one instruction, `BX lr`. -/
theorem witness_CallReturnsRegisterZero :
    ∃ t u, loadCall 0x8000#32 1 #v[7#32, 0#32, 0#32, 0#32] (resetState (start 0xE12FFF1E#32 [])) = .next t ∧
      runLoop 1 t.settle = .next u ∧ u.status = .done ∧ u.reg 0#4 = 7#32 :=
  ⟨_, _, rfl, rfl, by decide, by decide⟩

/-- A run that ends `Done`, and one that ends by a fault. -/
theorem witness_LargerBoundSameEnd :
    (∃ t, runLoop 1 (start 0xE12FFF1E#32 []) = .next t ∧ t.status ≠ .running) ∧
      ∃ t, runLoop 1 (start 0xE5910002#32 []) = .next t ∧ t.status = .fatal (.memoryFault 2#32 .read) :=
  ⟨⟨_, rfl, by decide⟩, ⟨_, rfl, by decide⟩⟩

/-- RUN-7. -/
theorem witness_BranchToSelfNeverEnds :
    let s := start 0xEAFFFFFE#32 []
    s.status = .running ∧ s.pc ≠ 0#32 ∧ accessOk s.config s.pc .read = true ∧ s.wordAt s.pc = 0xEAFFFFFE#32 := by decide

theorem witness_RegistersAreDistinct :
    (State.reset.setReg 15#4 7#32).reg 15#4 = 7#32 ∧ (0#4 ≠ 15#4) ∧ (State.reset.setReg 15#4 7#32).reg 0#4 = 0#32 := by decide

/-- The largest word, and a state whose own program counter cannot be fetched from. -/
theorem witness_PlacedWordIsRun :
    2 ^ 32 - 1 < 2 ^ 32 ∧ (∃ i, decodeWord State.reset.config.branchMask (BitVec.ofNat 32 (2 ^ 32 - 1)) = .ok i) ∧
      after (step (((start 0#32 []).setPc 0x9000#32).withFetchWord 32 0xE12FFF1E)) (fun t => t.status == .done) = true :=
  ⟨by decide, ⟨_, rfl⟩, by decide⟩

end Sys2Proof.Tests
end

/-! ### The classifier is total (spec/30_encoding.md R77, R78) -/

namespace Sys2Proof

/-- R78: the last test is true of every word, so the chain of tests never falls through to `none`. -/
theorem classify_total (m : BClassMask) (w : Word) : ∃ fam, classify m w = some fam := by
  classical
  rw [classify_eq]
  split_ifs
  · exact ⟨.branch, rfl⟩
  · exact ⟨.singleDataTransfer, rfl⟩
  · exact ⟨.branchExchange, rfl⟩
  · exact ⟨.multiply, rfl⟩
  · exact ⟨.dataProcessing, rfl⟩

/-- R77, R78: Data Processing takes whatever the four tests before it reject. -/
theorem classify_eq_dataProcessing_of_rejected (m : BClassMask) (w : Word)
    (hBranch : (w >>> 25) &&& m.bits ≠ 0b101#32) (hSdt : w.extractLsb' 26 2 ≠ 0b01#2)
    (hBx : (w >>> 4) &&& 0xFFFFFF#32 ≠ 0x12FFF1#32)
    (hMul : ¬ (w.extractLsb' 22 6 = 0#6 ∧ w.extractLsb' 4 4 = 0b1001#4)) :
    classify m w = some .dataProcessing := by
  rw [classify, if_neg hBranch, if_neg hSdt, if_neg hBx, if_neg hMul, if_pos (dpTest_true w)]

/-- A classified word decodes to an instruction of its family (R93). -/
theorem decodeWord_of_classify {m : BClassMask} {w : Word} {fam : Family} (h : classify m w = some fam) :
    decodeWord m w = .ok (decodeFamily fam w) := by
  rw [decodeWord, h]

/-- Settles O1: the instruction is the one the Data Processing opcode map gives the rejected word. -/
theorem classifierIsTotal : Obligations.ClassifierIsTotal := by
  intro m w
  refine ⟨classify_total m w, fun hBranch hSdt hBx hMul => ?_⟩
  have hDp : classify m w = some .dataProcessing :=
    classify_eq_dataProcessing_of_rejected m w hBranch hSdt hBx hMul
  exact ⟨decodeFamily .dataProcessing w, decodeWord_of_classify hDp, familyOf_decodeFamily .dataProcessing w⟩

end Sys2Proof

/-! ### Branch and Exchange (spec/42_branch_exchange.md R140) -/

namespace Sys2Proof.Machine

/-- The arm of `exec` for BX. -/
theorem exec_bx (f : BxFields) (s : State) :
    exec (.bx f) s = .next (((s.countRead f.rm).setPc (s.reg f.rm)).countWrite Reg.pc) := rfl

/-- R27, R140: the counts of a jump to a register's value are its one read and the one write of register 15. -/
theorem counted_jumpToReg (s : State) (m : Reg) (target : Word) :
    Counted s (((s.countRead m).setPc target).countWrite Reg.pc) [m] [Reg.pc] 0 0 := by
  constructor
  case reads => intro r; simp [count_cons_reg]
  case writes => intro r; simp [count_cons_reg]
  all_goals rfl

/-- R34, R50: a jump writes neither memory, nor the run status, nor a parameter. -/
theorem restSame_jumpToReg (s : State) (m : Reg) (target : Word) :
    RestSame s (((s.countRead m).setPc target).countWrite Reg.pc) where
  bytes _ := rfl
  status := rfl
  config := rfl

/-- Settles O19: the jump replaces `x[15]` alone, by a value read before the write, so `BX pc` is no special case. -/
theorem bxCompletes : Obligations.BxCompletes := by
  intro f s
  refine ⟨_, exec_bx f s, fun r => ?registers, rfl, restSame_jumpToReg s f.rm _, counted_jumpToReg s f.rm _⟩
  case registers => simp [afterJump]

end Sys2Proof.Machine

/-! ### The classifier, family by family (spec/30_encoding.md R77 to R80) -/

namespace Sys2Proof

open Sys2Proof.Machine

/-- R77, R79: the first test has nothing before it. -/
theorem classify_branch_iff (m : BClassMask) (w : Word) :
    classify m w = some .branch ↔ branchPattern m w.toNat := by
  classical
  rw [classify_eq]
  split_ifs <;> simp_all

/-- R77: no Branch word has `w[27:26] = 01`, under either mask. -/
theorem classify_singleDataTransfer_iff (m : BClassMask) (w : Word) :
    classify m w = some .singleDataTransfer ↔ w.toNat / 2 ^ 26 % 4 = 1 := by
  have hBranch : w.toNat / 2 ^ 26 % 4 = 1 → ¬ branchPattern m w.toNat := by
    cases m <;> simp only [branchPattern] <;> omega
  classical
  rw [classify_eq]
  split_ifs <;> simp_all

/-- R77: the Branch-and-Exchange pattern has `w[27:25] = 000`, which no earlier test takes. -/
theorem classify_branchExchange_iff (m : BClassMask) (w : Word) :
    classify m w = some .branchExchange ↔ w.toNat / 2 ^ 4 % 2 ^ 24 = 0x12FFF1 := by
  have hBranch : w.toNat / 2 ^ 4 % 2 ^ 24 = 0x12FFF1 → ¬ branchPattern m w.toNat := by
    cases m <;> simp only [branchPattern] <;> omega
  have hSdt : w.toNat / 2 ^ 4 % 2 ^ 24 = 0x12FFF1 → ¬ w.toNat / 2 ^ 26 % 4 = 1 := by omega
  classical
  rw [classify_eq]
  split_ifs <;> simp_all

/-- R77, R80: the Multiply pattern has `w[27:22] = 0`, where the Branch-and-Exchange pattern has `w[24] = 1`. -/
theorem classify_multiply_iff (m : BClassMask) (w : Word) :
    classify m w = some .multiply ↔ w.toNat / 2 ^ 22 % 64 = 0 ∧ w.toNat / 2 ^ 4 % 16 = 9 := by
  have hBranch : w.toNat / 2 ^ 22 % 64 = 0 → ¬ branchPattern m w.toNat := by
    cases m <;> simp only [branchPattern] <;> omega
  have hSdt : w.toNat / 2 ^ 22 % 64 = 0 → ¬ w.toNat / 2 ^ 26 % 4 = 1 := by omega
  have hBx : w.toNat / 2 ^ 22 % 64 = 0 → ¬ w.toNat / 2 ^ 4 % 2 ^ 24 = 0x12FFF1 := by omega
  classical
  rw [classify_eq]
  split_ifs <;> simp_all

/-- Settles O2: the four tests exclude each other, so their order decides nothing. -/
theorem familiesByPattern : Obligations.FamiliesByPattern := by
  intro m w
  refine ⟨?branch, ?sdt, ?bx, ?mul⟩
  case branch =>
    rw [classify_branch_iff]
    cases m
    · rw [← BitVec.toNat_inj, toNat_field]; exact Iff.rfl
    · have hBit (i : Nat) : w.getLsbD i = true ↔ w.toNat / 2 ^ i % 2 = 1 := by
        rw [← bitOf, bitOf_eq, decide_eq_true_iff]
      rw [hBit, hBit]; exact Iff.rfl
  case sdt => rw [classify_singleDataTransfer_iff, sdtTest_iff]
  case bx => rw [classify_branchExchange_iff, ← BitVec.toNat_inj, toNat_field]; exact Iff.rfl
  case mul => rw [classify_multiply_iff, mulTest_iff]

/-! ### Decode of encode (spec/30_encoding.md section 1) -/

/-- R77, R93: the classifier gives the word of a well-formed instruction back to the instruction's family. -/
theorem classify_encode (m : BClassMask) (i : Instr) (h : WellFormed m i = true) :
    classify m (encode i) = some (familyOf i) := by
  cases i with
  | mov f => exact Laws.EncodingClass.mov f m h
  | add f => exact Laws.EncodingClass.add f m h
  | sub f => exact Laws.EncodingClass.sub f m h
  | cmp f => exact Laws.EncodingClass.cmp f m h
  | and f => exact Laws.EncodingClass.and f m h
  | eor f => exact Laws.EncodingClass.eor f m h
  | rsb f => exact Laws.EncodingClass.rsb f m h
  | adc f => exact Laws.EncodingClass.adc f m h
  | sbc f => exact Laws.EncodingClass.sbc f m h
  | rsc f => exact Laws.EncodingClass.rsc f m h
  | tst f => exact Laws.EncodingClass.tst f m h
  | teq f => exact Laws.EncodingClass.teq f m h
  | cmn f => exact Laws.EncodingClass.cmn f m h
  | orr f => exact Laws.EncodingClass.orr f m h
  | bic f => exact Laws.EncodingClass.bic f m h
  | mvn f => exact Laws.EncodingClass.mvn f m h
  | mul f => exact Laws.EncodingClass.mul f m h
  | bx f => exact Laws.EncodingClass.bx f m h
  | ldr f => exact Laws.EncodingClass.ldr f m h
  | str f => exact Laws.EncodingClass.str f m h
  | b f => exact Laws.EncodingClass.b f m h
  | bl f => exact Laws.EncodingClass.bl f m h

/-- R72, R82: the opcode and the fields of a Data Processing word. -/
theorem decodeFamily_encodeDp (op : BitVec 4) (f : DpFields) :
    decodeFamily .dataProcessing (encodeDp op f) = dpInstr op f := by
  rw [decodeFamily, opcode_encodeDp, decodeDpFields_encodeDp]

/-- R75: the load bit and the fields of a Single Data Transfer word. -/
theorem decodeFamily_encodeSdt (load : Bool) (f : SdtFields) :
    decodeFamily .singleDataTransfer (encodeSdt load f) = if load then .ldr f else .str f := by
  rw [decodeFamily, loadBit_encodeSdt, decodeSdtFields_encodeSdt]

/-- R76: the link bit and the fields of a Branch word. -/
theorem decodeFamily_encodeBranch (link : Bool) (f : BranchFields) :
    decodeFamily .branch (encodeBranch link f) = if link then .bl f else .b f := by
  rw [decodeFamily, linkBit_encodeBranch, decodeBranchFields_encodeBranch]

/-- The fields of an instruction's word, read in the instruction's own format, are the instruction's, well formed or not. -/
theorem decodeFamily_encode (i : Instr) : decodeFamily (familyOf i) (encode i) = i := by
  cases i with
  | mul f => exact congrArg Instr.mul (decodeMulFields_encodeMul f)
  | bx f => exact congrArg Instr.bx (decodeBxFields_encodeBx f)
  | ldr f => exact decodeFamily_encodeSdt true f
  | str f => exact decodeFamily_encodeSdt false f
  | b f => exact decodeFamily_encodeBranch false f
  | bl f => exact decodeFamily_encodeBranch true f
  | _ f => exact decodeFamily_encodeDp _ f

/-- Settles O4: the classifier finds the family, the family's format gives back every field. -/
theorem decodeOfEncode : Obligations.DecodeOfEncode := by
  intro m i h
  rw [decodeWord_of_classify (classify_encode m i h), decodeFamily_encode]

/-! ### Encode of decode -/

/-- R82: the opcode map and the encoder agree on the opcode of each row. -/
theorem encode_dpInstr (op : BitVec 4) (f : DpFields) : encode (dpInstr op f) = encodeDp op f := by
  obtain ⟨n, hn⟩ := op
  interval_cases n <;> rfl

/-- What `WellFormed` asks of each opcode's row: every row's own condition, and the exceptions of TEQ, AND and EOR. -/
theorem wellFormed_dpInstr_iff (m : BClassMask) (op : BitVec 4) (f : DpFields) :
    WellFormed m (dpInstr op f) = true ↔
      f.wf m = true ∧ (op = 9#4 → f.notBx = true) ∧ (op = 0#4 ∨ op = 1#4 → f.notMul = true) := by
  obtain ⟨n, hn⟩ := op
  interval_cases n <;> simp [dpInstr, WellFormed]

/-- The Data Processing fields `notBranch` excludes are those of a Branch word, whatever the opcode. -/
theorem branchPattern_encodeDp {m : BClassMask} {op : BitVec 4} {f : DpFields} (h : f.notBranch m = false) :
    branchPattern m (encodeDp op f).toNat := by
  have h2 := f.rn.isLt
  have h3 := f.rd.isLt
  have h4 := (encodeOperand2 f.op2).isLt
  have h5 := op.isLt
  have b2 := toNat_bool_le f.s
  rw [toNat_encodeDp]
  cases m
  · have hf : f.cls = 2#2 ∧ f.op2.isImm = true := by simpa [DpFields.notBranch] using h
    simp only [branchPattern, hf, Bool.toNat_true, BitVec.toNat_ofNat]
    omega
  · have hf : (f.cls = 2#2 ∨ f.cls = 3#2) ∧ f.op2.isImm = true := by simpa [DpFields.notBranch, or_iff_not_imp_left] using h
    obtain ⟨hcls | hcls, himm⟩ := hf <;>
      simp only [branchPattern, hcls, himm, Bool.toNat_true, BitVec.toNat_ofNat] <;> omega

/-- The Data Processing fields `notSdt` excludes are those of a Single Data Transfer word. -/
theorem sdtPattern_encodeDp {op : BitVec 4} {f : DpFields} (h : f.notSdt = false) :
    (encodeDp op f).toNat / 2 ^ 26 % 4 = 1 := by
  have h2 := f.rn.isLt
  have h3 := f.rd.isLt
  have h4 := (encodeOperand2 f.op2).isLt
  have h5 := op.isLt
  have b1 := toNat_bool_le f.op2.isImm
  have b2 := toNat_bool_le f.s
  have hcls : f.cls = 1#2 := by simpa [DpFields.notSdt] using h
  rw [toNat_encodeDp]
  simp only [hcls, BitVec.toNat_ofNat]
  omega

/-- The one TEQ word `notBx` excludes, up to its condition and `rm`. -/
theorem notBx_eq_false {f : DpFields} (h : f.notBx = false) :
    f.cls = 0#2 ∧ f.s = false ∧ f.rn = 15#4 ∧ f.rd = 15#4 ∧ ∃ rm, f.op2 = .reg ⟨rm, .lsl, .reg 15#4 false⟩ := by
  unfold DpFields.notBx at h
  split at h
  · next rm rs hop2 =>
    obtain ⟨⟨⟨⟨hcls, hs⟩, hrn⟩, hrd⟩, hrs⟩ :
        (((f.cls = 0#2 ∧ f.s = false) ∧ f.rn = 15#4) ∧ f.rd = 15#4) ∧ rs = 15#4 := by simpa using h
    exact ⟨hcls, hs, hrn, hrd, rm, hrs ▸ hop2⟩
  · cases h

/-- A TEQ with the fields `notBx` excludes has the Branch-and-Exchange pattern. -/
theorem bxPattern_encodeDp {f : DpFields} (h : f.notBx = false) :
    (encodeDp 9#4 f).toNat / 2 ^ 4 % 2 ^ 24 = 0x12FFF1 := by
  obtain ⟨hcls, hs, hrn, hrd, rm, hop2⟩ := notBx_eq_false h
  have hrm := rm.isLt
  rw [toNat_encodeDp]
  simp only [hcls, hs, hrn, hrd, hop2, Operand2.isImm, encodeOperand2, toNat_encodeShiftedReg, ShiftCode.bits,
    BitVec.toNat_ofNat, Bool.toNat_false]
  omega

/-- The register form `notMul` excludes: a register amount with `w[7] = 1` and code `00`. -/
theorem notMul_eq_false {f : DpFields} (h : f.notMul = false) :
    f.cls = 0#2 ∧ ∃ rm rs, f.op2 = .reg ⟨rm, .lsl, .reg rs true⟩ := by
  unfold DpFields.notMul at h
  split at h
  · next rm rs hop2 => exact ⟨by simpa using h, rm, rs, hop2⟩
  · cases h

/-- An AND or an EOR with the fields `notMul` excludes has the Multiply pattern. -/
theorem mulPattern_encodeDp {op : BitVec 4} {f : DpFields} (hop : op = 0#4 ∨ op = 1#4) (h : f.notMul = false) :
    (encodeDp op f).toNat / 2 ^ 22 % 64 = 0 ∧ (encodeDp op f).toNat / 2 ^ 4 % 16 = 9 := by
  obtain ⟨hcls, rm, rs, hop2⟩ := notMul_eq_false h
  have h2 := f.rn.isLt
  have h3 := f.rd.isLt
  have b2 := toNat_bool_le f.s
  have hrm := rm.isLt
  have hrs := rs.isLt
  have hopN : op.toNat ≤ 1 := by
    obtain rfl | rfl := hop <;> decide
  rw [toNat_encodeDp]
  simp only [hcls, hop2, Operand2.isImm, encodeOperand2, toNat_encodeShiftedReg, ShiftCode.bits, BitVec.toNat_ofNat,
    Bool.toNat_false, Bool.toNat_true]
  omega

/-- R77, R78: a word the classifier leaves to Data Processing has none of the four patterns before it. -/
theorem classify_dataProcessing_iff (m : BClassMask) (w : Word) :
    classify m w = some .dataProcessing ↔
      ¬ branchPattern m w.toNat ∧ ¬ w.toNat / 2 ^ 26 % 4 = 1 ∧ ¬ w.toNat / 2 ^ 4 % 2 ^ 24 = 0x12FFF1 ∧
        ¬ (w.toNat / 2 ^ 22 % 64 = 0 ∧ w.toNat / 2 ^ 4 % 16 = 9) := by
  classical
  rw [classify_eq]
  split_ifs <;> simp_all

/-- What `WellFormed` excludes of a Data Processing word is exactly what the earlier tests take of it. -/
theorem wellFormed_decode_dataProcessing {m : BClassMask} {w : Word} (h : classify m w = some .dataProcessing) :
    WellFormed m (decodeFamily .dataProcessing w) = true := by
  obtain ⟨hBranch, hSdt, hBx, hMul⟩ := (classify_dataProcessing_iff m w).mp h
  rw [← encodeDp_decode w] at hBranch hSdt hBx hMul
  refine (wellFormed_dpInstr_iff m _ _).mpr
    ⟨Bool.and_eq_true_iff.mpr ⟨?_, ?_⟩, fun hop => ?_, fun hop => ?_⟩
  · exact eq_true_of_ne_false fun hf => hBranch (branchPattern_encodeDp hf)
  · exact eq_true_of_ne_false fun hf => hSdt (sdtPattern_encodeDp hf)
  · exact eq_true_of_ne_false fun hf => hBx (hop ▸ bxPattern_encodeDp hf)
  · exact eq_true_of_ne_false fun hf => hMul (mulPattern_encodeDp hop hf)

/-- R79: a Branch word has `w[26] = 0` under the mask that tests it. -/
theorem wf_decodeBranchFields {m : BClassMask} {w : Word} (h : branchPattern m w.toNat) :
    (decodeBranchFields w).wf m = true := by
  cases m
  · have hbit : bitOf w 26 = false := by
      rw [bitOf_eq, decide_eq_false_iff_not]
      simp only [branchPattern] at h
      omega
    simp [BranchFields.wf, decodeBranchFields, hbit]
  · simp [BranchFields.wf]

/-- The instruction of a classified word is well formed. -/
theorem wellFormed_decodeFamily {m : BClassMask} {w : Word} {fam : Family} (h : classify m w = some fam) :
    WellFormed m (decodeFamily fam w) = true := by
  cases fam with
  | branch =>
    have hwf := wf_decodeBranchFields ((classify_branch_iff m w).mp h)
    rw [decodeFamily]
    split <;> exact hwf
  | singleDataTransfer => rw [decodeFamily]; split <;> rfl
  | branchExchange => rfl
  | multiply => rfl
  | dataProcessing => exact wellFormed_decode_dataProcessing h

/-- The instruction of a classified word encodes to the word: the family's format leaves out only the bits its pattern
fixes. -/
theorem encode_decodeFamily {m : BClassMask} {w : Word} {fam : Family} (h : classify m w = some fam) :
    encode (decodeFamily fam w) = w := by
  cases fam with
  | branch =>
    have hw := encodeBranch_decode m w ((classify_branch_iff m w).mp h)
    rw [decodeFamily]
    split
    · next hlink => rwa [hlink] at hw
    · next hlink => rwa [eq_false_of_ne_true hlink] at hw
  | singleDataTransfer =>
    have hw := encodeSdt_decode w ((classify_singleDataTransfer_iff m w).mp h)
    rw [decodeFamily]
    split
    · next hload => rwa [hload] at hw
    · next hload => rwa [eq_false_of_ne_true hload] at hw
  | branchExchange => exact encodeBx_decode w ((classify_branchExchange_iff m w).mp h)
  | multiply => exact encodeMul_decode w ((classify_multiply_iff m w).mp h)
  | dataProcessing => rw [decodeFamily, encode_dpInstr, encodeDp_decode]

/-- Settles O5: the classifier is total, and both halves hold of the family it gives. -/
theorem encodeOfDecode : Obligations.EncodeOfDecode := by
  intro m w
  obtain ⟨fam, hfam⟩ := classify_total m w
  exact ⟨decodeFamily fam w, decodeWord_of_classify hfam, wellFormed_decodeFamily hfam, encode_decodeFamily hfam⟩

/-! ### Masks and bytes -/

/-- R79: the two masks disagree on `w[27:25] = 111` alone. -/
theorem branchPattern_masks_agree {n : Nat} (h : n / 2 ^ 25 % 8 ≠ 7) :
    branchPattern .m101 n ↔ branchPattern .m111 n := by
  simp only [branchPattern]
  omega

/-- Settles O3: only the classifier's first test reads the mask. -/
theorem maskReadingsAgree : Obligations.MaskReadingsAgree := by
  intro w hne
  have hbits : w.toNat / 2 ^ 25 % 8 ≠ 7 := fun e => hne (BitVec.eq_of_toNat_eq (by rw [toNat_field]; exact e))
  have hclassify : classify .m101 w = classify .m111 w := by
    classical
    rw [classify_eq, classify_eq]
    simp only [branchPattern_masks_agree hbits]
  rw [decodeWord, decodeWord, hclassify]

/-- Settles O6: the four bytes put together again are the word (R52, R53). -/
theorem decodeReadsFourBytes : Obligations.DecodeReadsFourBytes := by
  intro m i w rest h
  simp only [bytesOfWord, List.cons_append, List.nil_append, decode, wordOfBytes_byteOfWord, h]

/-- Settles O7: each word decodes by evaluation of the decoder. -/
theorem wordsOfTheSpecDecode : Obligations.WordsOfTheSpecDecode := by
  unfold Obligations.WordsOfTheSpecDecode
  decide

end Sys2Proof

/-! ### How frames and counts compose -/

namespace Sys2Proof.Machine

/-- The bytes of a state are those of its memory, so an equal memory is an equal byte everywhere. -/
theorem restSame_of_eq {s t : State} (hmem : t.mem = s.mem) (hstatus : t.status = s.status)
    (hconfig : t.config = s.config) : RestSame s t :=
  ⟨byteAt_congr hmem, hstatus, hconfig⟩

/-- The counts of two updates in a row add up, register by register. -/
theorem Counted.trans {s t u : State} {rr rr' rw rw' : List Reg} {fr fr' fw fw' : Nat}
    (h : Counted s t rr rw fr fw) (h' : Counted t u rr' rw' fr' fw') :
    Counted s u (rr ++ rr') (rw ++ rw') (fr + fr') (fw + fw') where
  reads r := by rw [h'.reads, h.reads, count_append_reg, Nat.add_assoc]
  writes r := by rw [h'.writes, h.writes, count_append_reg, Nat.add_assoc]
  flagReads := by rw [h'.flagReads, h.flagReads, Nat.add_assoc]
  flagWrites := by rw [h'.flagWrites, h.flagWrites, Nat.add_assoc]
  memoryOps := h'.memoryOps.trans h.memoryOps
  computeOps := h'.computeOps.trans h.computeOps
  branchOps := h'.branchOps.trans h.branchOps

/-- An update that leaves the telemetry alone counts nothing. -/
theorem counted_of_telemetry_eq {s t : State} (h : t.telemetry = s.telemetry) : Counted s t [] [] 0 0 where
  reads r := by simp [State.reads, h]
  writes r := by simp [State.writes, h]
  flagReads := by rw [h, Nat.add_zero]
  flagWrites := by rw [h, Nat.add_zero]
  memoryOps := by rw [h]
  computeOps := by rw [h]
  branchOps := by rw [h]

theorem counted_countRead (s : State) (d : Reg) : Counted s (s.countRead d) [d] [] 0 0 := by
  constructor <;> simp [count_cons_reg]

theorem counted_countWrite (s : State) (d : Reg) : Counted s (s.countWrite d) [] [d] 0 0 := by
  constructor <;> simp [count_cons_reg]

theorem counted_countFlagRead (s : State) : Counted s s.countFlagRead [] [] 1 0 := by
  constructor <;> simp

theorem counted_countOperand2 (s : State) (o : Operand2) : Counted s (countOperand2 s o) (operand2Reads o) [] 0 0 := by
  constructor <;> simp

theorem counted_countSdtOffset (s : State) (o : SdtOffset) : Counted s (countSdtOffset s o) (offsetReads o) [] 0 0 := by
  constructor <;> simp

theorem counted_writeCounted (s : State) (d : Reg) (v : Word) : Counted s (writeCounted d v s) [] [d] 0 0 :=
  (counted_of_telemetry_eq (telemetry_setReg s d v)).trans (counted_countWrite _ d)

theorem counted_setCompareFlags (s : State) (a b : Word) : Counted s (setCompareFlags s a b) [] [] 0 1 := by
  constructor <;> simp

theorem counted_setMultiplyFlags (s : State) (b : Bool) (p : Word) : Counted s (setMultiplyFlags s b p) [] [] 0 0 := by
  constructor <;> simp

theorem counted_indexBase (s : State) (go : Bool) (n : Reg) (o : Word) : Counted s (indexBase go n o s) [] [] 0 0 := by
  constructor <;> simp

theorem counted_writeBack (s : State) (w : Bool) (n : Reg) (o : Word) :
    Counted s (writeBack w n o s) [] (if w then [n] else []) 0 0 := by
  constructor <;> simp

theorem counted_advanceCounted (s : State) : Counted s s.advanceCounted [Reg.pc] [Reg.pc] 0 0 := by
  constructor <;> simp [count_cons_reg]

/-- R151, R152: the offset's reads are all that is counted before the access. -/
theorem counted_sdtIndexed (s : State) (f : SdtFields) : Counted s (sdtIndexed f s) (offsetReads f.offset) [] 0 0 := by
  simpa [sdtIndexed] using (counted_countSdtOffset s f.offset).trans (counted_indexBase _ f.p f.rn _)

/-- R152: after the access a kept write-back is counted, then the advance. -/
theorem counted_sdtFinish (s : State) (f : SdtFields) (o : Word) :
    Counted s (sdtFinish f o s) [Reg.pc] ((if f.w then [f.rn] else []) ++ [Reg.pc]) 0 0 := by
  simpa [sdtFinish] using ((counted_indexBase s (!f.p) f.rn o).trans (counted_writeBack _ f.w f.rn o)).trans (counted_advanceCounted _)

/-! ### What every instruction changes and leaves (spec/10_state.md sections 3 and 4) -/

/-- The registers whose reads an instruction counts (R100 to R105, R130, R140, R151 to R154, R172, R173). -/
@[simp] def instrReads : Instr → List Reg
  | .mov f => operand2Reads f.op2 ++ [Reg.pc]
  | .add f | .sub f | .cmp f => operand2Reads f.op2 ++ [f.rn, Reg.pc]
  | .and f | .eor f | .rsb f | .adc f | .sbc f | .rsc f | .tst f | .teq f | .cmn f | .orr f | .bic f | .mvn f =>
      operand2Reads f.op2 ++ [Reg.pc]
  | .mul f => [f.rm, f.rs]
  | .bx f => [f.rm]
  | .ldr f => offsetReads f.offset ++ [Reg.pc]
  | .str f => offsetReads f.offset ++ [f.rd, Reg.pc]
  | .b _ => []
  | .bl _ => [Reg.pc]

/-- The registers whose writes an instruction counts, by the same rules. -/
@[simp] def instrWrites : Instr → List Reg
  | .mov f | .add f | .sub f => [f.rd, Reg.pc]
  | .cmp _ | .and _ | .eor _ | .rsb _ | .adc _ | .sbc _ | .rsc _ | .tst _ | .teq _ | .cmn _ | .orr _ | .bic _ | .mvn _ =>
      [Reg.pc]
  | .mul f => [f.rd]
  | .bx _ => [Reg.pc]
  | .ldr f => [f.rd] ++ (if f.w then [f.rn] else []) ++ [Reg.pc]
  | .str f => (if f.w then [f.rn] else []) ++ [Reg.pc]
  | .b _ => []
  | .bl _ => [Reg.lr]

/-- The no-op opcodes count alike (R105), and none of them is CMP. -/
theorem noOp_counts {f : DpFields} {i : Instr}
    (hi : i ∈ [Instr.and f, .eor f, .rsb f, .adc f, .sbc f, .rsc f, .tst f, .teq f, .cmn f, .orr f, .bic f, .mvn f]) :
    instrReads i = operand2Reads f.op2 ++ [Reg.pc] ∧ instrWrites i = [Reg.pc] ∧ isCmp i = false := by
  fin_cases hi <;> exact ⟨rfl, rfl, rfl⟩

/-- R27, R28: what an instruction counts; a flag read is B's alone, and B has none in case 5. -/
theorem exec_counted {i : Instr} {s t : State} (h : exec i s = .next t) :
    ∃ fr, Counted s t (instrReads i) (instrWrites i) fr (if isCmp i then 1 else 0) ∧
      (fr = 0 ∨ fr = 1 ∧ ∃ f, i = .b f) := by
  cases exec_shape i s t h with
  | mov f =>
    refine ⟨0, ?_, .inl rfl⟩
    simpa [isCmp, movArm] using ((counted_countOperand2 s f.op2).trans (counted_writeCounted _ f.rd _)).trans (counted_advanceCounted _)
  | add f =>
    refine ⟨0, ?_, .inl rfl⟩
    simpa [isCmp, addArm] using (((counted_countOperand2 s f.op2).trans (counted_countRead _ f.rn)).trans
      (counted_writeCounted _ f.rd _)).trans (counted_advanceCounted _)
  | sub f =>
    refine ⟨0, ?_, .inl rfl⟩
    simpa [isCmp, subArm] using (((counted_countOperand2 s f.op2).trans (counted_countRead _ f.rn)).trans
      (counted_writeCounted _ f.rd _)).trans (counted_advanceCounted _)
  | cmp f =>
    refine ⟨0, ?_, .inl rfl⟩
    simpa [isCmp, cmpArm] using (((counted_countOperand2 s f.op2).trans (counted_countRead _ f.rn)).trans
      (counted_setCompareFlags _ _ _)).trans (counted_advanceCounted _)
  | noOp f i hi =>
    obtain ⟨hreads, hwrites, hcmp⟩ := noOp_counts hi
    rw [hreads, hwrites, hcmp]
    exact ⟨0, (counted_countOperand2 s f.op2).trans (counted_advanceCounted _), .inl rfl⟩
  | mul f =>
    refine ⟨0, ?_, .inl rfl⟩
    simpa [isCmp, multiplyArm, writeCounted] using ((((counted_countRead s f.rm).trans (counted_countRead _ f.rs)).trans
      (counted_writeCounted _ f.rd _)).trans (counted_setMultiplyFlags _ f.s _)).trans
      (counted_of_telemetry_eq (telemetry_advance _))
  | bx f => exact ⟨0, counted_jumpToReg s f.rm _, .inl rfl⟩
  | ldr f ha =>
    refine ⟨0, ?_, .inl rfl⟩
    simpa [isCmp, writeCounted] using ((counted_sdtIndexed s f).trans (counted_writeCounted _ f.rd _)).trans (counted_sdtFinish _ f _)
  | str f ha =>
    refine ⟨0, ?_, .inl rfl⟩
    simpa [isCmp] using (((counted_sdtIndexed s f).trans (counted_countRead _ f.rd)).trans
      (counted_of_telemetry_eq (telemetry_setMem _ _))).trans (counted_sdtFinish _ f _)
  | bRead f x =>
    exact ⟨1, (counted_countFlagRead s).trans (counted_of_telemetry_eq (telemetry_setPc _ x)), .inr ⟨rfl, f, rfl⟩⟩
  | bAlways f x => exact ⟨0, counted_of_telemetry_eq (telemetry_setPc s x), .inl rfl⟩
  | bl f =>
    refine ⟨0, ?_, .inl rfl⟩
    simpa [isCmp, writeCounted] using ((counted_countRead s Reg.pc).trans (counted_writeCounted _ Reg.lr _)).trans
      (counted_of_telemetry_eq (telemetry_setPc _ _))

/-- The counts of an instruction other than B. -/
theorem exec_counted_of_not_b {i : Instr} {s t : State} (h : exec i s = .next t) (hb : ∀ f, i ≠ .b f) :
    Counted s t (instrReads i) (instrWrites i) 0 (if isCmp i then 1 else 0) := by
  obtain ⟨fr, hc, rfl | ⟨-, f, rfl⟩⟩ := exec_counted h
  · exact hc
  · exact absurd rfl (hb f)

/-- R50: only a store writes memory. -/
theorem exec_mem_of_not_str {i : Instr} {s t : State} (h : exec i s = .next t) (hstr : ∀ f, i ≠ .str f) :
    t.mem = s.mem := by
  cases exec_shape i s t h with
  | str f ha => exact absurd rfl (hstr f)
  | _ => simp [movArm, addArm, subArm, cmpArm, multiplyArm, sdtFinish, sdtIndexed]

/-- R53, R154: what a store makes of memory. -/
theorem exec_mem_str {f : SdtFields} {s t : State} (h : exec (.str f) s = .next t) :
    t.mem = s.mem.writeWord (sdtAddress f s) (storedWord f s) := by
  cases exec_shape _ s t h with
  | noOp g i hi => simp at hi
  | str f ha => simp [sdtFinish]

/-- The frame of an instruction other than STR. -/
theorem exec_restSame {i : Instr} {s t : State} (h : exec i s = .next t) (hstr : ∀ f, i ≠ .str f) : RestSame s t :=
  restSame_of_eq (exec_mem_of_not_str h hstr) (exec_status i s t h) (exec_config i s t h)

/-- R24: what an instruction makes of the flag register. -/
theorem exec_flags_cases {i : Instr} {s t : State} (h : exec i s = .next t) :
    t.flags = s.flags ∨ (∃ f, i = .cmp f ∧ t.flags ∈ [s.config.flagEq, s.config.flagGt, s.config.flagLt]) ∨
      ∃ f, i = .mul f ∧ f.s = true ∧ t.flags = s.config.flagNeg := by
  cases exec_shape i s t h with
  | cmp f =>
    refine .inr (.inl ⟨f, rfl, ?_⟩)
    simpa [cmpArm] using compareSentinel_mem s.config _
  | mul f =>
    by_cases hneg : f.s = true ∧ productNegative (s.reg f.rm * s.reg f.rs) = true
    · exact .inr (.inr ⟨f, rfl, hneg.1, by simp [multiplyArm, hneg]⟩)
    · exact .inl (by simp [multiplyArm, hneg])
  | _ => exact .inl (by simp [movArm, addArm, subArm, sdtFinish, sdtIndexed])

/-- An instruction that may not write the flag register leaves it. -/
theorem exec_flags_eq {i : Instr} {s t : State} (h : exec i s = .next t) (hi : mayWriteFlags i = false) :
    t.flags = s.flags := by
  obtain hf | ⟨f, rfl, -⟩ | ⟨f, rfl, hs, -⟩ := exec_flags_cases h
  · exact hf
  · cases hi
  · exact absurd (hs.symm.trans hi) (by decide)

/-- Settles O44: the cases of the flag register, without the one that leaves it. -/
theorem flagsWrittenOnlyByCmpAndMul : Obligations.FlagsWrittenOnlyByCmpAndMul := by
  intro i s t h hne
  obtain hf | ⟨f, hi, -⟩ | hmul := exec_flags_cases h
  · exact absurd hf hne
  · exact .inl ⟨f, hi⟩
  · exact .inr hmul

/-- Settles O45: the bytes are those of a memory no instruction but a store writes. -/
theorem onlyStrWritesMemory : Obligations.OnlyStrWritesMemory :=
  fun _ _ _ h hstr => (exec_restSame h hstr).bytes

/-- Settles O47: what an instruction counts in the flag counters. -/
theorem flagCounts : Obligations.FlagCounts := by
  intro i s t h
  obtain ⟨fr, hc, hfr⟩ := exec_counted h
  have hreads := hc.flagReads
  refine ⟨hc.flagWrites, by omega, by omega, fun hne => ?_⟩
  obtain rfl | ⟨-, hb⟩ := hfr
  · exact absurd hreads hne
  · exact hb

end Sys2Proof.Machine

/-! ### The stops of a load and a store, and of no other instruction (spec/43_single_data_transfer.md section 2) -/

namespace Sys2Proof.Machine

/-- R153, R159: a load whose access the port does not make. -/
theorem execLdr_of_not_ok (f : SdtFields) (s : State) (h : accessOk s.config (sdtAddress f s) .read = false) :
    execLdr f s = .fault (.memoryFault (sdtAddress f s) .read) := by
  have hr : memRead (sdtIndexed f s) (effectiveAddress f s) = .error (.memoryFault (sdtAddress f s) .read) := by
    rw [memRead_error_iff, config_sdtIndexed, effectiveAddress_eq]
    exact ⟨h, rfl⟩
  simp only [execLdr, sdtSequence, loadArm, hr, raiseFatal]

/-- R154, R159: a store whose access the port does not make. -/
theorem execStr_of_not_ok (f : SdtFields) (s : State) (h : accessOk s.config (sdtAddress f s) .write = false) :
    execStr f s = .fault (.memoryFault (sdtAddress f s) .write) := by
  have hw : memWrite ((sdtIndexed f s).countRead f.rd) (effectiveAddress f s) ((sdtIndexed f s).reg f.rd) =
      .error (.memoryFault (sdtAddress f s) .write) := by
    rw [memWrite_error_iff, effectiveAddress_eq, config_countRead, config_sdtIndexed]
    exact ⟨h, rfl⟩
  simp only [execStr, sdtSequence, storeArm, hw, raiseFatal]

/-- Settles O22: the access is the first thing that can fail, at the address the index step gives. -/
theorem transferFaults : Obligations.TransferFaults :=
  fun f s => ⟨execLdr_of_not_ok f s, execStr_of_not_ok f s⟩

/-- Settles O40: every other unit ends in a next state whatever its operands. -/
theorem onlyTransfersFault : Obligations.OnlyTransfersFault := by
  intro i s
  cases i with
  | ldr f =>
    cases ha : accessOk s.config (sdtAddress f s) .read with
    | true => exact .inl ⟨_, execLdr_of_ok f s ha⟩
    | false => exact .inr ⟨f, .inl ⟨rfl, execLdr_of_not_ok f s ha⟩⟩
  | str f =>
    cases ha : accessOk s.config (sdtAddress f s) .write with
    | true => exact .inl ⟨_, execStr_of_ok f s ha⟩
    | false => exact .inr ⟨f, .inr ⟨rfl, execStr_of_not_ok f s ha⟩⟩
  | b f =>
    obtain ⟨x, hx | hx⟩ := execB_next f s
    · exact .inl ⟨_, hx⟩
    · exact .inl ⟨_, hx⟩
  | _ f => exact .inl ⟨_, rfl⟩

/-! ### What a step answers (spec/45_fetch_execute_loop.md section 1) -/

/-- R190: the loop's test comes before the fetch. -/
theorem step_at_sentinel {s : State} (hs : s.status = .running) (hz : s.pc = retSentinel) :
    step s = .next (s.setStatus .done) := by
  simp only [step, loopStep, hs, hz, if_true]

/-- R191, R203: the port refuses the fetch. -/
theorem step_of_fetch_fault {s : State} (hs : s.status = .running) (hz : s.pc ≠ retSentinel)
    (ha : accessOk s.config s.pc .read = false) : step s = .fault (.memoryFault s.pc .read) := by
  have hr : memRead s s.pc = .error (.memoryFault s.pc .read) := (memRead_error_iff _ _ _).mpr ⟨ha, rfl⟩
  simp only [step, loopStep, hs, if_neg hz, fetchExecute, hr, raiseFatal]

/-- Settles O35. The fetch is the only access before the unit's own. -/
theorem fetchFaults : Obligations.FetchFaults :=
  fun _ hs hz ha => step_of_fetch_fault hs hz ha

/-- Settles O36: the step sets the run status alone. -/
theorem loopEndsAtTheSentinel : Obligations.LoopEndsAtTheSentinel :=
  fun _ hs hz => ⟨_, step_at_sentinel hs hz, rfl, fun _ => rfl, rfl, rfl, rfl, rfl⟩

/-- Settles O37: the step reads the run status first. -/
theorem endedRunsDoNotStep : Obligations.EndedRunsDoNotStep := by
  intro s
  constructor
  · intro hs
    simp only [step, loopStep, hs]
  · intro f hs
    simp only [step, loopStep, hs, raiseFatal]

/-- Settles O34: the bytes at the program counter, as a list and as a word, decode alike. -/
theorem stepRunsTheDecodedInstruction : Obligations.StepRunsTheDecodedInstruction := by
  intro s i rest hs hz ha hdec
  have hword : decodeWord s.config.branchMask (s.wordAt s.pc) = .ok i := by
    simp only [decode] at hdec
    unfold State.wordAt
    cases hw : decodeWord s.config.branchMask
        (wordOfBytes (s.byteAt s.pc) (s.byteAt (s.pc + 1#32)) (s.byteAt (s.pc + 2#32)) (s.byteAt (s.pc + 3#32))) with
    | error e => rw [hw] at hdec; cases hdec
    | ok j => rw [hw] at hdec; cases hdec; rfl
  rw [step_of_decode s i hs hz ha hword, runInstr_eq]
  rfl

/-- Settles O39: a step ends at the sentinel, or at the fetch, or in the unit, where only an access can fail. -/
theorem onlyMemoryFaultsStopARun : Obligations.OnlyMemoryFaultsStopARun := by
  intro s hs
  by_cases hz : s.pc = retSentinel
  · exact .inl ⟨_, step_at_sentinel hs hz⟩
  cases ha : accessOk s.config s.pc .read with
  | false => exact .inr ⟨_, _, step_of_fetch_fault hs hz ha⟩
  | true =>
    obtain ⟨i, hi⟩ := decodeWord_total s.config.branchMask (s.wordAt s.pc)
    rw [step_of_decode s i hs hz ha hi, runInstr]
    obtain ⟨t, ht⟩ | ⟨f, ⟨-, hf⟩ | ⟨-, hf⟩⟩ := onlyTransfersFault i (s.countFamily (familyOf i))
    · exact .inl ⟨t.settle, by rw [ht, settleOutcome]⟩
    · exact .inr ⟨_, _, by rw [hf, settleOutcome]⟩
    · exact .inr ⟨_, _, by rw [hf, settleOutcome]⟩

/-- A step's next state: the run ended at the sentinel, or the decoded instruction ran and the loop's test was made. The
fetch is left out: what a step keeps does not depend on it. -/
theorem step_next_cases {s t : State} (h : step s = .next t) :
    (s.status = .running ∧ s.pc = retSentinel ∧ t = s.setStatus .done) ∨
    ∃ i u, s.status = .running ∧ s.pc ≠ retSentinel ∧ decodeWord s.config.branchMask (s.wordAt s.pc) = .ok i ∧
      exec i (s.countFamily (familyOf i)) = .next u ∧ t = u.settle := by
  obtain hend | ⟨hs, hz, -, i, u, hi, hu, ht⟩ := step_next s t h
  · exact .inl hend
  · exact .inr ⟨i, u, hs, hz, hi, hu, ht⟩

/-- Settles O46: no instruction writes a parameter, and neither does the loop. -/
theorem stepKeepsParameters : Obligations.StepKeepsParameters := by
  intro s t h
  obtain ⟨-, -, rfl⟩ | ⟨i, u, -, -, -, hu, rfl⟩ := step_next_cases h
  · rfl
  · rw [config_settle, exec_config i _ u hu, config_countFamily]

/-- Settles O38: the loop's test decides, and no instruction ends the run by itself. -/
theorem doneExactlyAtZero : Obligations.DoneExactlyAtZero := by
  intro s t h
  obtain ⟨-, hz, rfl⟩ | ⟨i, u, hs, -, -, hu, rfl⟩ := step_next_cases h
  · have hpc : (s.setStatus .done).pc = 0#32 := hz
    simp [hpc]
  · have hrun : u.status = .running := by rw [exec_status i _ u hu, status_countFamily, hs]
    by_cases hz : u.pc = 0#32 <;> simp [hz, hrun, retSentinel]

/-! ### The invariant -/

/-- R53: an instruction keeps memory in its canonical form. -/
theorem exec_keeps_mem_wf {i : Instr} {s t : State} (h : exec i s = .next t) (hwf : s.mem.wf) : t.mem.wf := by
  cases i with
  | str f => rw [exec_mem_str h]; exact wf_writeWord _ _ _ hwf
  | _ f => rw [exec_mem_of_not_str h (by simp)]; exact hwf

/-- R24: an instruction leaves the flag register at 0 or a sentinel. -/
theorem exec_keeps_flagsLegal {i : Instr} {s t : State} (h : exec i s = .next t) (hs : s.flagsLegal) : t.flagsLegal := by
  unfold State.flagsLegal
  rw [exec_config i s t h]
  obtain hf | ⟨-, -, hf⟩ | ⟨-, -, -, hf⟩ := exec_flags_cases h
  · rw [hf]; exact hs
  · simp only [List.mem_cons, List.not_mem_nil, or_false] at hf ⊢
    tauto
  · simp [hf]

/-- Settles O41: the instruction keeps memory, parameters and flags, the loop's test makes `Done` true of the sentinel
alone. -/
theorem stepKeepsInvariant : Obligations.StepKeepsInvariant := by
  intro s t hInv h
  have hdone : t.status = .done → t.pc = retSentinel := (doneExactlyAtZero s t h).1.mp
  obtain ⟨-, -, rfl⟩ | ⟨i, u, -, -, -, hu, rfl⟩ := step_next_cases h
  · exact ⟨hInv.mem_wf, hInv.config_wf, hInv.flags_legal, hdone⟩
  · refine ⟨?mem, ?config, ?flags, hdone⟩
    case mem =>
      rw [mem_settle]
      exact exec_keeps_mem_wf hu (by rw [mem_countFamily]; exact hInv.mem_wf)
    case config =>
      rw [config_settle, exec_config i _ u hu, config_countFamily]
      exact hInv.config_wf
    case flags =>
      have hlegal : u.flagsLegal := exec_keeps_flagsLegal hu (by simpa [State.flagsLegal] using hInv.flags_legal)
      simpa [State.flagsLegal] using hlegal

/-- Settles O42: the reset memory lists nothing, the reference parameters are admissible, the flags are 0. -/
theorem resetMeetsInvariant : Obligations.ResetMeetsInvariant where
  mem_wf := wf_nil
  config_wf := by decide
  flags_legal := by decide
  done_at_sentinel := nofun

/-! ### The instruction-mix counters (spec/10_state.md section 4) -/

/-- Settles O48: the loop counts the family before the unit runs, and the unit leaves the three counters alone. -/
theorem stepCountsItsFamily : Obligations.StepCountsItsFamily := by
  intro s t i fam _ hz hi hfam h
  have hi' : i = decodeFamily fam (s.wordAt s.pc) := by
    rw [decodeWord_of_classify hfam] at hi
    exact (Except.ok.inj hi).symm
  have hfamily : familyOf i = fam := by rw [hi', familyOf_decodeFamily]
  obtain ⟨-, hz', -⟩ | ⟨j, u, -, -, hj, hu, rfl⟩ := step_next_cases h
  · exact absurd hz' hz
  obtain rfl : j = i := Except.ok.inj (hj.symm.trans hi)
  obtain ⟨fr, hc, -⟩ := exec_counted hu
  have hmem := hc.memoryOps
  have hcomp := hc.computeOps
  have hbr := hc.branchOps
  rw [hfamily] at hmem hcomp hbr
  refine ⟨hfamily, ?_⟩
  rw [State.instructionCount, telemetry_settle, hmem, hcomp, hbr, State.instructionCount]
  cases fam <;> simp [State.countFamily] <;> omega

/-- The loop's own count adds to one counter and takes from none. -/
theorem countFamily_le (s : State) (fam : Family) :
    s.telemetry.memoryOps ≤ (s.countFamily fam).telemetry.memoryOps ∧
      s.telemetry.computeOps ≤ (s.countFamily fam).telemetry.computeOps ∧
      s.telemetry.branchOps ≤ (s.countFamily fam).telemetry.branchOps := by
  cases fam <;> simp [State.countFamily]

@[simp] theorem reads_settle (s : State) (r : Reg) : s.settle.reads r = s.reads r := by
  rw [State.reads, telemetry_settle, State.reads]

@[simp] theorem writes_settle (s : State) (r : Reg) : s.settle.writes r = s.writes r := by
  rw [State.writes, telemetry_settle, State.writes]

/-- Settles O49: an instruction only adds to the counters, as the loop does. -/
theorem countersNeverDecrease : Obligations.CountersNeverDecrease := by
  intro s t h
  obtain ⟨-, -, rfl⟩ | ⟨i, u, -, -, -, hu, rfl⟩ := step_next_cases h
  · simp
  obtain ⟨fr, hc, -⟩ := exec_counted hu
  obtain ⟨hmem, hcomp, hbr⟩ := countFamily_le s (familyOf i)
  refine ⟨fun r => ⟨?reads, ?writes⟩, ?_⟩
  case reads => rw [reads_settle, hc.reads, reads_countFamily]; exact Nat.le_add_right _ _
  case writes => rw [writes_settle, hc.writes, writes_countFamily]; exact Nat.le_add_right _ _
  rw [telemetry_settle, hc.flagReads, hc.flagWrites, hc.memoryOps, hc.computeOps, hc.branchOps, flagReads_countFamily,
    flagWrites_countFamily]
  exact ⟨Nat.le_add_right _ _, Nat.le_add_right _ _, hmem, hcomp, hbr⟩

/-! ### The word placed for a step (spec/45_fetch_execute_loop.md R198) -/

/-- The launch region holds the four bytes of the launch entry. -/
theorem fetchable_launchAt (s : State) : fetchable (launchAt s) = true := by
  have hpc : (launchAt s).pc = launchEntry := pc_setPc s launchEntry
  have hregions : (launchAt s).config.regions = launchRegion :: s.config.regions := rfl
  have hvalid (a : Word) (h : regionHolds launchRegion a = true) : validByte (launchAt s).config a .read = true := by
    have hpermits : regionPermits launchRegion .read = true := rfl
    simp [validByte, hregions, h, hpermits]
  rw [fetchable, hpc, accessOk, hvalid _ (by decide), hvalid _ (by decide), hvalid _ (by decide), hvalid _ (by decide)]
  rfl

/-- A placed word stands at a program counter the loop fetches from, under the state's own mask. -/
theorem placeWord_eq (s : State) (w : Word) :
    ∃ t, fetchable t = true ∧ t.config.branchMask = s.config.branchMask ∧
      placeWord s w = (t.setMem (t.mem.writeWord t.pc w)).setStatus .running := by
  unfold placeWord
  by_cases hs : fetchable s = true
  · exact ⟨s, hs, rfl, by rw [if_pos hs]; rfl⟩
  rw [if_neg hs]
  by_cases ha : accessOk s.config launchEntry .read = true
  · refine ⟨s.setPc launchEntry, ?_, rfl, by rw [if_pos ha]; rfl⟩
    simp only [fetchable, pc_setPc, config_setPc, ha, Bool.and_true]
    rfl
  · exact ⟨launchAt s, fetchable_launchAt s, rfl, by rw [if_neg ha]; rfl⟩

/-- What the next step finds of a placed word: the run goes on, the fetch is made, and it reads the word back (R61). -/
theorem placeWord_spec (s : State) (w : Word) :
    (placeWord s w).status = .running ∧ (placeWord s w).pc ≠ retSentinel ∧
      accessOk (placeWord s w).config (placeWord s w).pc .read = true ∧
      (placeWord s w).wordAt (placeWord s w).pc = w ∧ (placeWord s w).config.branchMask = s.config.branchMask := by
  obtain ⟨t, hfetch, hmask, hplaced⟩ := placeWord_eq s w
  obtain ⟨hz, ha⟩ : t.pc ≠ retSentinel ∧ accessOk t.config t.pc .read = true := by simpa [fetchable] using hfetch
  rw [hplaced]
  exact ⟨rfl, hz, ha, wordAt_writeWord _ t.mem t.pc w rfl, hmask⟩

/-- Settles O59: the step fetches the placed word, decodes it and runs it. -/
theorem placedWordIsRun : Obligations.PlacedWordIsRun := by
  intro s w i hw hi
  rw [State.withFetchWord, Nat.mod_eq_of_lt hw]
  obtain ⟨hs, hz, ha, hword, hmask⟩ := placeWord_spec s (BitVec.ofNat 32 w)
  rw [step_of_decode _ i hs hz ha (by rw [hmask, hword, hi]), runInstr_eq]
  rfl

end Sys2Proof.Machine

/-! ### Noninterference of the counters (spec/10_state.md R30) -/

namespace Sys2Proof.Machine

namespace SameButTelemetry

variable {s t u : State}

theorem symm (h : SameButTelemetry s t) : SameButTelemetry t s :=
  ⟨h.regs.symm, h.flags.symm, h.mem.symm, h.status.symm, h.config.symm⟩

theorem trans (h : SameButTelemetry s t) (h' : SameButTelemetry t u) : SameButTelemetry s u :=
  ⟨h.regs.trans h'.regs, h.flags.trans h'.flags, h.mem.trans h'.mem, h.status.trans h'.status,
    h.config.trans h'.config⟩

/-- An update that only counts makes no difference to the relation. -/
theorem lift_count {g : State → State} (hg : ∀ s, SameButTelemetry (g s) s) (h : SameButTelemetry s t) :
    SameButTelemetry (g s) (g t) :=
  ((hg s).trans h).trans (hg t).symm

theorem countRead (h : SameButTelemetry s t) (d : Reg) : SameButTelemetry (s.countRead d) (t.countRead d) :=
  h.lift_count (g := (·.countRead d)) fun _ => ⟨rfl, rfl, rfl, rfl, rfl⟩

theorem countWrite (h : SameButTelemetry s t) (d : Reg) : SameButTelemetry (s.countWrite d) (t.countWrite d) :=
  h.lift_count (g := (·.countWrite d)) fun _ => ⟨rfl, rfl, rfl, rfl, rfl⟩

theorem countFlagRead (h : SameButTelemetry s t) : SameButTelemetry s.countFlagRead t.countFlagRead :=
  h.lift_count (g := (·.countFlagRead)) fun _ => ⟨rfl, rfl, rfl, rfl, rfl⟩

theorem countFlagWrite (h : SameButTelemetry s t) : SameButTelemetry s.countFlagWrite t.countFlagWrite :=
  h.lift_count (g := (·.countFlagWrite)) fun _ => ⟨rfl, rfl, rfl, rfl, rfl⟩

theorem countFamily (h : SameButTelemetry s t) (fam : Family) :
    SameButTelemetry (s.countFamily fam) (t.countFamily fam) := by
  refine h.lift_count (g := (·.countFamily fam)) fun _ => ?_
  cases fam <;> exact ⟨rfl, rfl, rfl, rfl, rfl⟩

theorem countShiftedReg (h : SameButTelemetry s t) (r : ShiftedReg) :
    SameButTelemetry (countShiftedReg s r) (countShiftedReg t r) := by
  unfold Machine.countShiftedReg
  cases r.amount with
  | imm amt => exact h.countRead r.rm
  | reg rs bit7 => exact (h.countRead r.rm).countRead rs

theorem countOperand2 (h : SameButTelemetry s t) (o : Operand2) :
    SameButTelemetry (countOperand2 s o) (countOperand2 t o) := by
  cases o with
  | imm rotate imm8 => exact h
  | reg r => exact h.countShiftedReg r

theorem countSdtOffset (h : SameButTelemetry s t) (o : SdtOffset) :
    SameButTelemetry (countSdtOffset s o) (countSdtOffset t o) := by
  cases o with
  | imm imm12 => exact h
  | reg r => exact h.countShiftedReg r

/-! What is read of two related states is equal. -/

theorem reg (h : SameButTelemetry s t) (r : Reg) : s.reg r = t.reg r := by
  simp only [State.reg, h.regs]

theorem pc (h : SameButTelemetry s t) : s.pc = t.pc :=
  h.reg Reg.pc

theorem shiftedRegValue (h : SameButTelemetry s t) (r : ShiftedReg) : shiftedRegValue s r = shiftedRegValue t r := by
  have hamount : shiftAmount s r.amount = shiftAmount t r.amount := by
    cases r.amount with
    | imm amt => rfl
    | reg rs bit7 => simp only [shiftAmount, h.reg]
  simp only [Machine.shiftedRegValue, hamount, h.reg]

theorem operand2Value (h : SameButTelemetry s t) (o : Operand2) : operand2Value s o = operand2Value t o := by
  cases o with
  | imm rotate imm8 => simp only [Machine.operand2Value, h.config]
  | reg r => exact h.shiftedRegValue r

theorem sdtOffsetValue (h : SameButTelemetry s t) (up : Bool) (o : SdtOffset) :
    sdtOffsetValue s up o = sdtOffsetValue t up o := by
  have hmagnitude : sdtOffsetMagnitude s o = sdtOffsetMagnitude t o := by
    cases o with
    | imm imm12 => rfl
    | reg r => exact h.shiftedRegValue r
  simp only [Machine.sdtOffsetValue, hmagnitude]

theorem condIsFlags (h : SameButTelemetry s t) (cond : BitVec 4) : condIsFlags s cond = condIsFlags t cond := by
  simp only [Machine.condIsFlags, h.flags]

/-! Writes of equal values keep two states related. -/

theorem setReg (h : SameButTelemetry s t) (d : Reg) (v : Word) : SameButTelemetry (s.setReg d v) (t.setReg d v) where
  regs := by simp only [State.setReg, h.regs]
  flags := h.flags
  mem := h.mem
  status := h.status
  config := h.config

theorem setPc (h : SameButTelemetry s t) (v : Word) : SameButTelemetry (s.setPc v) (t.setPc v) :=
  h.setReg Reg.pc v

theorem setFlags (h : SameButTelemetry s t) (v : Word) : SameButTelemetry (s.setFlags v) (t.setFlags v) :=
  ⟨h.regs, rfl, h.mem, h.status, h.config⟩

theorem setMem (h : SameButTelemetry s t) (m : Memory) : SameButTelemetry (s.setMem m) (t.setMem m) :=
  ⟨h.regs, h.flags, rfl, h.status, h.config⟩

theorem setStatus (h : SameButTelemetry s t) (st : RunStatus) : SameButTelemetry (s.setStatus st) (t.setStatus st) :=
  ⟨h.regs, h.flags, h.mem, rfl, h.config⟩

theorem advance (h : SameButTelemetry s t) : SameButTelemetry s.advance t.advance := by
  simpa only [State.advance, h.pc] using h.setPc (t.pc + 4#32)

theorem advanceCounted (h : SameButTelemetry s t) : SameButTelemetry s.advanceCounted t.advanceCounted :=
  (h.advance.countRead Reg.pc).countWrite Reg.pc

theorem writeCounted (h : SameButTelemetry s t) (d : Reg) (v : Word) :
    SameButTelemetry (writeCounted d v s) (writeCounted d v t) :=
  (h.setReg d v).countWrite d

theorem setCompareFlags (h : SameButTelemetry s t) (a b : Word) :
    SameButTelemetry (setCompareFlags s a b) (setCompareFlags t a b) := by
  simpa only [Machine.setCompareFlags, h.config] using (h.setFlags (compareSentinel t.config (a - b))).countFlagWrite

theorem setMultiplyFlags (h : SameButTelemetry s t) (b : Bool) (p : Word) :
    SameButTelemetry (setMultiplyFlags s b p) (setMultiplyFlags t b p) := by
  unfold Machine.setMultiplyFlags
  rw [h.config]
  split
  · exact h.setFlags t.config.flagNeg
  · exact h

theorem indexBase (h : SameButTelemetry s t) (go : Bool) (n : Reg) (o : Word) :
    SameButTelemetry (indexBase go n o s) (indexBase go n o t) := by
  unfold Machine.indexBase
  rw [h.reg]
  split
  · exact h.setReg n _
  · exact h

theorem writeBack (h : SameButTelemetry s t) (w : Bool) (n : Reg) (o : Word) :
    SameButTelemetry (writeBack w n o s) (writeBack w n o t) := by
  unfold Machine.writeBack
  rw [h.reg]
  split
  · exact h.countWrite n
  · exact h.setReg n _

theorem sdtIndexed (h : SameButTelemetry s t) (f : SdtFields) : SameButTelemetry (sdtIndexed f s) (sdtIndexed f t) := by
  unfold Machine.sdtIndexed
  rw [h.sdtOffsetValue]
  exact (h.countSdtOffset f.offset).indexBase f.p f.rn _

theorem sdtFinish (h : SameButTelemetry s t) (f : SdtFields) (o : Word) :
    SameButTelemetry (sdtFinish f o s) (sdtFinish f o t) :=
  ((h.indexBase (!f.p) f.rn o).writeBack f.w f.rn o).advanceCounted

theorem settle (h : SameButTelemetry s t) : SameButTelemetry s.settle t.settle := by
  unfold State.settle
  rw [h.pc]
  split
  · exact h.setStatus .done
  · exact h

theorem memRead (h : SameButTelemetry s t) (a : Word) : memRead s a = memRead t a := by
  simp only [Machine.memRead, h.config, wordAt_congr h.mem]

end SameButTelemetry

/-- The sequence of Data Processing respects the relation where its arm does. -/
theorem dpSequence_same (f : DpFields) {arm : Word → State → State} {s t : State} (h : SameButTelemetry s t)
    (harm : ∀ v {s t : State}, SameButTelemetry s t → SameButTelemetry (arm v s) (arm v t)) :
    SameOutcomeButTelemetry (dpSequence f arm s) (dpSequence f arm t) := by
  unfold dpSequence
  rw [h.operand2Value]
  exact (harm _ (h.countOperand2 f.op2)).advanceCounted

/-- Two accesses that differ in their next states' telemetry at most. -/
def SameAccess : Except Fault State → Except Fault State → Prop
  | .ok s, .ok t => SameButTelemetry s t
  | .error f, .error g => f = g
  | _, _ => False

/-- The sequence of Single Data Transfer respects the relation where its access does. -/
theorem sdtSequence_same (f : SdtFields) {access : Word → State → Except Fault State} {s t : State}
    (h : SameButTelemetry s t)
    (haccess : ∀ ea {s t : State}, SameButTelemetry s t → SameAccess (access ea s) (access ea t)) :
    SameOutcomeButTelemetry (sdtSequence f access s) (sdtSequence f access t) := by
  have hsame := haccess (effectiveAddress f t) (h.sdtIndexed f)
  unfold sdtSequence
  rw [effectiveAddress, (h.sdtIndexed f).reg, ← effectiveAddress, h.sdtOffsetValue]
  cases hs : access (effectiveAddress f t) (sdtIndexed f s) <;>
    cases ht : access (effectiveAddress f t) (sdtIndexed f t) <;> rw [hs, ht] at hsame
  · exact hsame
  · exact hsame
  · exact hsame
  · exact hsame.sdtFinish f _

theorem loadArm_same (f : SdtFields) (ea : Word) {s t : State} (h : SameButTelemetry s t) :
    SameAccess (loadArm f ea s) (loadArm f ea t) := by
  unfold loadArm
  rw [h.memRead]
  cases memRead t ea with
  | ok v => exact h.writeCounted f.rd v
  | error e => rfl

theorem storeArm_same (f : SdtFields) (ea : Word) {s t : State} (h : SameButTelemetry s t) :
    SameAccess (storeArm f ea s) (storeArm f ea t) := by
  have hcount := h.countRead f.rd
  unfold storeArm memWrite
  rw [hcount.config, hcount.mem, h.reg]
  split
  · exact hcount.setMem _
  · rfl

theorem execMul_same (f : MulFields) {s t : State} (h : SameButTelemetry s t) :
    SameOutcomeButTelemetry (execMul f s) (execMul f t) := by
  unfold execMul multiplyArm
  rw [h.reg, h.reg]
  exact ((((h.countRead f.rm).countRead f.rs).writeCounted f.rd _).setMultiplyFlags f.s _).advance

theorem execB_same (f : BranchFields) {s t : State} (h : SameButTelemetry s t) :
    SameOutcomeButTelemetry (execB f s) (execB f t) := by
  unfold execB
  rw [h.flags, h.condIsFlags, h.pc]
  split_ifs
  · exact h.countFlagRead.setPc _
  · exact h.countFlagRead.setPc _
  · exact h.countFlagRead.setPc _
  · exact h.countFlagRead.setPc _
  · exact h.setPc _

theorem execBl_same (f : BranchFields) {s t : State} (h : SameButTelemetry s t) :
    SameOutcomeButTelemetry (execBl f s) (execBl f t) := by
  unfold execBl
  rw [h.pc]
  exact ((h.countRead Reg.pc).writeCounted Reg.lr _).setPc _

theorem execBx_same (f : BxFields) {s t : State} (h : SameButTelemetry s t) :
    SameOutcomeButTelemetry (execBx f s) (execBx f t) := by
  unfold execBx
  rw [h.reg]
  exact ((h.countRead f.rm).setPc _).countWrite Reg.pc

/-- R30: no instruction consults a counter. -/
theorem exec_same (i : Instr) {s t : State} (h : SameButTelemetry s t) :
    SameOutcomeButTelemetry (exec i s) (exec i t) := by
  cases i with
  | mov f => exact dpSequence_same f h fun v _ _ h => h.writeCounted f.rd v
  | add f =>
    refine dpSequence_same f h fun v s t h => ?_
    unfold addArm
    rw [h.reg]
    exact (h.countRead f.rn).writeCounted f.rd _
  | sub f =>
    refine dpSequence_same f h fun v s t h => ?_
    unfold subArm
    rw [h.reg]
    exact (h.countRead f.rn).writeCounted f.rd _
  | cmp f =>
    refine dpSequence_same f h fun v s t h => ?_
    unfold cmpArm
    rw [h.reg]
    exact (h.countRead f.rn).setCompareFlags _ v
  | mul f => exact execMul_same f h
  | bx f => exact execBx_same f h
  | ldr f => exact sdtSequence_same f h fun ea _ _ => loadArm_same f ea
  | str f => exact sdtSequence_same f h fun ea _ _ => storeArm_same f ea
  | b f => exact execB_same f h
  | bl f => exact execBl_same f h
  | _ f => exact dpSequence_same f h fun _ _ _ h => h

/-- The loop's test keeps two outcomes related. -/
theorem settleOutcome_same {o o' : Host.Outcome State Fault Refusal} (h : SameOutcomeButTelemetry o o') :
    SameOutcomeButTelemetry (settleOutcome o) (settleOutcome o') := by
  cases o with
  | next s =>
    cases o' with
    | next t => exact SameButTelemetry.settle h
    | fault f => exact h
    | refused r => exact h
  | fault f => cases o' <;> exact h
  | refused r => cases o' <;> exact h

/-- Settles O43: the loop's test, the fetch, the decoder and the unit read the same values in both states. -/
theorem telemetryNeverConsulted : Obligations.TelemetryNeverConsulted := by
  intro s t h
  cases ht : t.status with
  | done => rw [(endedRunsDoNotStep s).1 (h.status.trans ht), (endedRunsDoNotStep t).1 ht]; rfl
  | fatal f => rw [(endedRunsDoNotStep s).2 f (h.status.trans ht), (endedRunsDoNotStep t).2 f ht]; rfl
  | running =>
    have hs : s.status = .running := h.status.trans ht
    by_cases hz : t.pc = retSentinel
    · rw [step_at_sentinel hs (h.pc.trans hz), step_at_sentinel ht hz]
      exact h.setStatus .done
    have hz' : s.pc ≠ retSentinel := fun e => hz (h.pc.symm.trans e)
    have haccess : accessOk s.config s.pc .read = accessOk t.config t.pc .read := by rw [h.config, h.pc]
    cases ha : accessOk t.config t.pc .read with
    | false =>
      rw [step_of_fetch_fault hs hz' (haccess.trans ha), step_of_fetch_fault ht hz ha, h.pc]
      rfl
    | true =>
      obtain ⟨i, hi⟩ := decodeWord_total t.config.branchMask (t.wordAt t.pc)
      rw [step_of_decode s i hs hz' (haccess.trans ha) (by rw [h.config, wordAt_congr h.mem, h.pc, hi]),
        step_of_decode t i ht hz ha hi]
      exact settleOutcome_same (exec_same i (h.countFamily (familyOf i)))

end Sys2Proof.Machine

/-! ### Operand values (spec/30_encoding.md section 3) -/

namespace Sys2Proof.Machine

/-- The zero-extended byte is the byte, as a number. -/
theorem toNat_zext_byte (b : Byte) : (b.setWidth 32).toNat = b.toNat :=
  BitVec.toNat_setWidth_of_le (by decide)

/-- R83: with no rotate, every reading gives the byte itself. -/
theorem rotatedImm_zero (m : ImmRotate) (b : Byte) : rotatedImm m 0#4 b = b.setWidth 32 := by
  cases m
  · rfl
  · exact BitVec.eq_of_getLsbD_eq fun i hi => by simp [rotatedImm, hi]

/-- R83: the immediate operand under the machine's reading of the rotate; a zero rotate is no special case. -/
theorem immOperand_eq (c : Config) (rotate : BitVec 4) (b : Byte) :
    immOperand c rotate b = rotatedImm (immRotateOf c) rotate b := by
  unfold immOperand
  split
  · next h => rw [h, rotatedImm_zero]
  · rfl

/-- Settles O8: where the rotate is not given, the free choice is one of the two readings. -/
theorem immediateOperandValues : Obligations.ImmediateOperandValues := by
  intro s rotate imm8
  have hignore : (rotatedImm .ignore rotate imm8).toNat = imm8.toNat := toNat_zext_byte imm8
  have hval : operand2Value s (.imm rotate imm8) = rotatedImm (immRotateOf s.config) rotate imm8 :=
    immOperand_eq s.config rotate imm8
  rw [hval]
  refine ⟨?zero, ?ignore, ?ror, ?notGiven⟩
  case zero => rintro rfl; rw [rotatedImm_zero, toNat_zext_byte]
  case ignore => intro h; rw [immRotateOf, h]; exact hignore
  case ror => intro h; rw [immRotateOf, h]; rfl
  case notGiven =>
    intro _
    cases immRotateOf s.config with
    | ignore => exact .inl hignore
    | ror => exact .inr rfl

/-- The amount as a number (R85): the low byte of a register is its value modulo 256. -/
theorem shiftAmount_reg (s : State) (rs : Reg) (bit7 : Bool) : shiftAmount s (.reg rs bit7) = (s.reg rs).toNat % 256 := by
  rw [shiftAmount, toNat_field, Nat.pow_zero, Nat.div_one]; rfl

/-- R85: code `00` multiplies by twice the amount, and a zero amount leaves the value. -/
theorem toNat_shiftStandIn_lsl {n : Nat} (v : Word) (hn : n ≠ 0) :
    (shiftStandIn .lsl n v).toNat = v.toNat * (2 * n) % 2 ^ 32 := by
  rw [shiftStandIn, if_neg hn, BitVec.toNat_ofNat, Nat.mul_comm n 2]

/-- R85: code `10` divides by twice the amount; the quotient needs no reduction. -/
theorem toNat_shiftStandIn_asr {n : Nat} (v : Word) (hn : n ≠ 0) :
    (shiftStandIn .asr n v).toNat = v.toNat / (2 * n) := by
  rw [shiftStandIn, if_neg hn, BitVec.toNat_ofNat, Nat.mul_comm n 2]
  exact Nat.mod_eq_of_lt (Nat.lt_of_le_of_lt (Nat.div_le_self _ _) v.isLt)

/-- R85: what else leaves the value. -/
theorem shiftStandIn_eq_self {code : ShiftCode} {n : Nat} (v : Word) (h : n = 0 ∨ code = .lsr ∨ code = .ror) :
    shiftStandIn code n v = v := by
  unfold shiftStandIn
  split
  · rfl
  · next hn =>
    obtain rfl | rfl := h.resolve_left hn
    · rfl
    · rfl

/-- Settles O9: the amount and the code decide, as the three lemmas of the stand-in say. -/
theorem shiftStandInValues : Obligations.ShiftStandInValues := by
  rintro s ⟨rm, code, amount⟩ n hn
  have hval : operand2Value s (.reg ⟨rm, code, amount⟩) = shiftStandIn code n (s.reg rm) := by
    subst hn
    cases amount with
    | imm amt => rfl
    | reg rs bit7 => rw [operand2Value, shiftedRegValue, shiftAmount_reg]
  rw [hval]
  refine ⟨shiftStandIn_eq_self _, ?lsl, ?asr⟩
  case lsl => rintro rfl hn; exact toNat_shiftStandIn_lsl _ hn
  case asr => rintro rfl hn; exact toNat_shiftStandIn_asr _ hn

/-- R86: the zero-extended 12-bit offset is far below the sign bit. -/
theorem toInt_zext_imm12 (i : BitVec 12) : (i.setWidth 32).toInt = i.toNat := by
  have := i.isLt
  rw [BitVec.toInt_eq_toNat_of_lt, BitVec.toNat_setWidth_of_le (by decide)]
  rw [BitVec.toNat_setWidth_of_le (by decide)]
  omega

/-- Settles O10: the register form is operand 2's, and negation is modulo 2^32. -/
theorem transferOffsetValues : Obligations.TransferOffsetValues := by
  intro s u imm12 r
  have hreg : sdtOffsetMagnitude s (.reg r) = operand2Value s (.reg r) := rfl
  have hlt := imm12.isLt
  cases u
  · refine ⟨?_, ?_⟩
    · simp only [sdtOffsetValue, sdtOffsetMagnitude, Bool.false_eq_true, if_false]
      rw [BitVec.toInt_neg, toInt_zext_imm12]
      exact Int.bmod_eq_of_le (by omega) (by omega)
    · simp only [sdtOffsetValue, hreg, Bool.false_eq_true, if_false, BitVec.toNat_neg]
  · refine ⟨?_, ?_⟩
    · simp only [sdtOffsetValue, sdtOffsetMagnitude, if_true, toInt_zext_imm12]
    · simp only [sdtOffsetValue, hreg, if_true]

/-- Settles O11: four times a signed 24-bit number fits in 32 bits. -/
theorem branchOffsetIsSignedWords : Obligations.BranchOffsetIsSignedWords := by
  intro imm24
  have hlo := BitVec.le_toInt imm24
  have hhi := BitVec.toInt_lt (x := imm24)
  have hval : (branchOffset imm24).toInt = imm24.toInt * 4 := by
    rw [branchOffset, BitVec.toInt_mul, BitVec.toInt_signExtend_of_le (by decide)]
    exact Int.bmod_eq_of_le (by simp; omega) (by simp; omega)
  refine ⟨hval, ?_, ?_⟩ <;> omega

/-! ### Data Processing (spec/40_data_processing.md) -/

/-- The arms of `exec` for the opcodes with an effect. -/
theorem exec_mov (f : DpFields) (s : State) :
    exec (.mov f) s = .next (movArm f (operand2Value s f.op2) (countOperand2 s f.op2)).advanceCounted := rfl

theorem exec_add (f : DpFields) (s : State) :
    exec (.add f) s = .next (addArm f (operand2Value s f.op2) (countOperand2 s f.op2)).advanceCounted := rfl

theorem exec_sub (f : DpFields) (s : State) :
    exec (.sub f) s = .next (subArm f (operand2Value s f.op2) (countOperand2 s f.op2)).advanceCounted := rfl

theorem exec_cmp (f : DpFields) (s : State) :
    exec (.cmp f) s = .next (cmpArm f (operand2Value s f.op2) (countOperand2 s f.op2)).advanceCounted := rfl

/-- R105: the twelve no-op opcodes have one meaning. -/
theorem exec_noOp {f : DpFields} {i : Instr} (s : State)
    (hi : i ∈ [Instr.and f, .eor f, .rsb f, .adc f, .sbc f, .rsc f, .tst f, .teq f, .cmn f, .orr f, .bic f, .mvn f]) :
    exec i s = .next (countOperand2 s f.op2).advanceCounted := by
  fin_cases hi <;> rfl

/-- R100, R109: a write followed by the advance, on a state whose registers are those of `s`. -/
theorem reg_writeCounted_advanceCounted {s u : State} (hu : ∀ r, u.reg r = s.reg r) (d : Reg) (v : Word) (r : Reg) :
    (writeCounted d v u).advanceCounted.reg r = afterWriteAdvance s d v r := by
  have hpc : u.pc = s.pc := hu Reg.pc
  simp only [reg_advanceCounted, pc_writeCounted, reg_writeCounted, afterWriteAdvance, hu, hpc, eq_comm (a := Reg.pc)]

/-- R100: the advance alone, on a state whose registers are those of `s`. -/
theorem reg_advanceCounted_of_eq {s u : State} (hu : ∀ r, u.reg r = s.reg r) (r : Reg) :
    u.advanceCounted.reg r = afterAdvance s r := by
  have hpc : u.pc = s.pc := hu Reg.pc
  simp only [reg_advanceCounted, afterAdvance, hu, hpc]

/-- Settles O12: MOV's arm is one counted write. -/
theorem movCompletes : Obligations.MovCompletes := by
  intro f s
  have h := exec_mov f s
  exact ⟨_, h, reg_writeCounted_advanceCounted (reg_countOperand2 s f.op2) _ _, exec_flags_eq h rfl,
    exec_restSame h nofun, exec_counted_of_not_b h nofun⟩

/-- Settles O13: ADD's arm is one counted write of the wrapped sum. -/
theorem addCompletes : Obligations.AddCompletes := by
  intro f s
  have h := exec_add f s
  refine ⟨_, h, fun r => ?registers, exec_flags_eq h rfl, exec_restSame h nofun, exec_counted_of_not_b h nofun⟩
  case registers =>
    have hsum : BitVec.ofNat 32 (((s.reg f.rn).toNat + (operand2Value s f.op2).toNat) % 2 ^ 32) =
        s.reg f.rn + operand2Value s f.op2 := by
      rw [← BitVec.toNat_add, BitVec.ofNat_toNat, BitVec.setWidth_eq]
    rw [hsum, addArm, reg_countOperand2]
    exact reg_writeCounted_advanceCounted (reg_countOperand2 s f.op2) _ _ r

/-- Settles O14: SUB's arm is one counted write of the wrapped difference. -/
theorem subCompletes : Obligations.SubCompletes := by
  intro f s
  have h := exec_sub f s
  refine ⟨_, h, fun r => ?registers, exec_flags_eq h rfl, exec_restSame h nofun, exec_counted_of_not_b h nofun⟩
  case registers =>
    have hdiff : BitVec.ofInt 32 (((s.reg f.rn).toNat : Int) - ((operand2Value s f.op2).toNat : Int)) =
        s.reg f.rn - operand2Value s f.op2 := by
      rw [sub_eq_add_neg, BitVec.ofInt_add, BitVec.ofInt_neg, BitVec.ofInt_natCast, BitVec.ofInt_natCast,
        BitVec.ofNat_toNat, BitVec.ofNat_toNat, BitVec.setWidth_eq, BitVec.setWidth_eq, ← BitVec.sub_eq_add_neg]
    rw [hdiff, subArm, reg_countOperand2]
    exact reg_writeCounted_advanceCounted (reg_countOperand2 s f.op2) _ _ r

/-- R104: CMP's flags, on the state it starts from. -/
theorem exec_cmp_flags (f : DpFields) (s : State) :
    ∃ t, exec (.cmp f) s = .next t ∧
      t.flags = compareSentinel s.config (s.reg f.rn - operand2Value s f.op2) :=
  ⟨_, exec_cmp f s, by simp [cmpArm]⟩

/-- Settles O15: the three clauses are the three branches of the comparison. -/
theorem cmpCompletes : Obligations.CmpCompletes := by
  intro f s
  obtain ⟨t, h, hflags⟩ := exec_cmp_flags f s
  refine ⟨t, h, ?equal, ?greater, ?less, ?registers, exec_restSame h nofun, exec_counted_of_not_b h nofun⟩
  case equal => intro he; rw [hflags, he, BitVec.sub_self, compareSentinel, if_pos rfl]
  case greater =>
    intro hne hpos
    have hdiff : s.reg f.rn - operand2Value s f.op2 ≠ 0#32 := fun e => hne (sub_eq_zero.mp e)
    rw [hflags, compareSentinel, if_neg hdiff, if_pos hpos]
  case less =>
    intro hneg
    have hne : s.reg f.rn - operand2Value s f.op2 ≠ 0#32 := fun e => by rw [e] at hneg; exact absurd hneg (by decide)
    rw [hflags, compareSentinel, if_neg hne, if_neg (by omega)]
  case registers =>
    cases (exec_cmp f s).symm.trans h
    intro r
    exact reg_advanceCounted_of_eq (by simp [cmpArm]) r

/-- A word difference that does not overflow is the integer difference. -/
theorem toInt_sub_of_no_overflow (a b : Word) (hlo : -(2 ^ 31) ≤ a.toInt - b.toInt) (hhi : a.toInt - b.toInt < 2 ^ 31) :
    (a - b).toInt = a.toInt - b.toInt := by
  rw [BitVec.toInt_sub]
  exact Int.bmod_eq_of_le (by simpa using hlo) (by simpa using hhi)

/-- Settles O16: without overflow the sign of the wrapped difference is the order of the operands. -/
theorem cmpIsSignedComparison : Obligations.CmpIsSignedComparison := by
  intro f s hlo hhi
  obtain ⟨t, h, hflags⟩ := exec_cmp_flags f s
  refine ⟨t, h, ?_⟩
  have hdiff := toInt_sub_of_no_overflow _ _ hlo hhi
  have hzero : s.reg f.rn - operand2Value s f.op2 = 0#32 ↔ (s.reg f.rn).toInt = (operand2Value s f.op2).toInt := by
    rw [BitVec.toInt_inj]; exact sub_eq_zero
  have hpos : (s.reg f.rn - operand2Value s f.op2).toInt > 0 ↔ (operand2Value s f.op2).toInt < (s.reg f.rn).toInt := by
    omega
  simp only [hflags, compareSentinel, hzero, hpos]

/-- Settles O17: the no-op opcodes make the counted advance alone. -/
theorem noOpOpcodesComplete : Obligations.NoOpOpcodesComplete := by
  intro f s i hi
  exact ⟨_, exec_noOp s hi, reg_advanceCounted_of_eq (reg_countOperand2 s f.op2), by simp,
    restSame_of_eq (by simp) (by simp) (by simp), (counted_countOperand2 s f.op2).trans (counted_advanceCounted _)⟩

/-! ### Multiply (spec/41_multiply.md) -/

theorem exec_mul (f : MulFields) (s : State) : exec (.mul f) s = .next (multiplyArm f s).advance := rfl

/-- R130, D19: negative is the sign of the truncated product. -/
theorem productNegative_iff (p : Word) : productNegative p = true ↔ p.toInt < 0 := by
  rw [productNegative, bitOf, ← BitVec.msb_eq_getLsbD_last, BitVec.msb_eq_toInt, decide_eq_true_iff]

/-- Settles O18: both factors are read from the state the instruction starts in, the advance from the one it leaves. -/
theorem mulCompletes : Obligations.MulCompletes := by
  intro f s
  have h := exec_mul f s
  have hprod : BitVec.ofNat 32 ((s.reg f.rm).toNat * (s.reg f.rs).toNat) = s.reg f.rm * s.reg f.rs := by
    rw [BitVec.ofNat_mul, BitVec.ofNat_toNat, BitVec.ofNat_toNat, BitVec.setWidth_eq, BitVec.setWidth_eq]
  refine ⟨_, _, h, rfl, fun r => ?registers, ?flags, exec_restSame h nofun, exec_counted_of_not_b h nofun⟩
  case registers => simp [multiplyArm, afterWriteAdvance, hprod, eq_comm (a := Reg.pc)]
  case flags => simp [multiplyArm, productNegative_iff, hprod]

end Sys2Proof.Machine

/-! ### Load and store (spec/43_single_data_transfer.md sections 2 and 3) -/

namespace Sys2Proof.Machine

/-- The registers at the access: the base as the pre-index step leaves it (R155). -/
theorem reg_sdtIndexed (f : SdtFields) (s : State) (r : Reg) :
    (sdtIndexed f s).reg r = if r = f.rn then sdtAddress f s else s.reg r := by
  unfold sdtIndexed sdtAddress
  by_cases hr : r = f.rn <;> cases f.p <;> simp [hr]

/-- What the steps after the access make of a base register that holds `b`: the post-index update, then the write-back
step, which takes back whichever update was made (R152). -/
def baseAfterAccess (f : SdtFields) (o b : Word) : Word :=
  match f.p, f.w with
  | true, true => b
  | true, false => b - o
  | false, true => b + o
  | false, false => b

/-- The steps after the access, before the advance, write the base register alone. -/
theorem reg_writeBack_indexBase (f : SdtFields) (o : Word) (s : State) (r : Reg) :
    (writeBack f.w f.rn o (indexBase (!f.p) f.rn o s)).reg r =
      if r = f.rn then baseAfterAccess f o (s.reg f.rn) else s.reg r := by
  unfold baseAfterAccess
  by_cases hr : r = f.rn
  · cases f.p <;> cases f.w <;> simp [hr]
  · simp [hr]

/-- The registers after the whole of R152, from those the access leaves: `b` is what the steps after it make of the base. -/
theorem reg_sdtFinish {f : SdtFields} {o b : Word} {s : State} {g : Reg → Word}
    (hb : baseAfterAccess f o (s.reg f.rn) = b) (hg : ∀ q, q ≠ f.rn → s.reg q = g q) (r : Reg) :
    (sdtFinish f o s).reg r =
      if r = Reg.pc then (if f.rn = Reg.pc then b else g Reg.pc) + 4#32 else if r = f.rn then b else g r := by
  have hreg (q : Reg) : (writeBack f.w f.rn o (indexBase (!f.p) f.rn o s)).reg q = if q = f.rn then b else g q := by
    rw [reg_writeBack_indexBase, hb]
    split
    · rfl
    · next hq => exact hg q hq
  simp only [sdtFinish, reg_advanceCounted, State.pc, hreg, eq_comm (a := Reg.pc)]

/-- R155: over a store, or a load into another register, the base moves by the offset exactly when `W = 1`. -/
theorem baseAfterAccess_sdtAddress (f : SdtFields) (s : State) :
    baseAfterAccess f (sdtOffsetValue s f.u f.offset) (sdtAddress f s) = sdtBaseAfter f s := by
  unfold baseAfterAccess sdtAddress sdtBaseAfter
  cases f.p <;> cases f.w <;> simp

/-- R156: over a load into its own base, the steps after the access apply to the loaded word. -/
theorem baseAfterAccess_loaded (f : SdtFields) (s : State) (v : Word) :
    baseAfterAccess f (sdtOffsetValue s f.u f.offset) v = loadedBaseAfter f s v := by
  unfold baseAfterAccess loadedBaseAfter
  cases f.p <;> cases f.w <;> rfl

theorem exec_ldr {f : SdtFields} {s : State} (ha : accessOk s.config (sdtAddress f s) .read = true) :
    exec (.ldr f) s = .next (sdtFinish f (sdtOffsetValue s f.u f.offset)
      (writeCounted f.rd (s.wordAt (sdtAddress f s)) (sdtIndexed f s))) :=
  execLdr_of_ok f s ha

theorem exec_str {f : SdtFields} {s : State} (ha : accessOk s.config (sdtAddress f s) .write = true) :
    exec (.str f) s = .next (sdtFinish f (sdtOffsetValue s f.u f.offset)
      (((sdtIndexed f s).countRead f.rd).setMem (s.mem.writeWord (sdtAddress f s) (storedWord f s)))) :=
  execStr_of_ok f s ha

/-- Settles O20: after the access the base holds the loaded word when it is the destination, else the address. -/
theorem ldrCompletes : Obligations.LdrCompletes := by
  intro f s ha
  have h := exec_ldr ha
  refine ⟨_, _, _, h, rfl, rfl, fun r => ?registers, exec_flags_eq h rfl, exec_restSame h nofun,
    exec_counted_of_not_b h nofun⟩
  case registers =>
    have hbase : baseAfterAccess f (sdtOffsetValue s f.u f.offset)
        ((writeCounted f.rd (s.wordAt (sdtAddress f s)) (sdtIndexed f s)).reg f.rn) =
          if f.rd = f.rn then loadedBaseAfter f s (s.wordAt (sdtAddress f s)) else sdtBaseAfter f s := by
      by_cases hdn : f.rd = f.rn
      · simp only [reg_writeCounted, hdn, if_true, baseAfterAccess_loaded]
      · simp only [reg_writeCounted, reg_sdtIndexed, hdn, ne_comm.mp hdn, if_true, if_false, baseAfterAccess_sdtAddress]
    have hother (q : Reg) (hq : q ≠ f.rn) : (writeCounted f.rd (s.wordAt (sdtAddress f s)) (sdtIndexed f s)).reg q =
        if q = f.rd then s.wordAt (sdtAddress f s) else s.reg q := by
      rw [reg_writeCounted, reg_sdtIndexed, if_neg hq]
    simpa only [State.pc, eq_comm (a := Reg.pc)] using reg_sdtFinish hbase hother r

/-- Settles O21: the store leaves the base as the pre-index step left it, and memory changes at the access alone. -/
theorem strCompletes : Obligations.StrCompletes := by
  intro f s ha
  have h := exec_str ha
  have hmem := exec_mem_str h
  refine ⟨_, h, fun r => ?registers, wordAt_writeWord _ s.mem _ _ hmem, fun a h0 h1 h2 h3 => ?bytes,
    exec_flags_eq h rfl, exec_status _ _ _ h, exec_config _ _ _ h, exec_counted_of_not_b h nofun⟩
  case registers =>
    have hreg (q : Reg) : (((sdtIndexed f s).countRead f.rd).setMem
        (s.mem.writeWord (sdtAddress f s) (storedWord f s))).reg q = if q = f.rn then sdtAddress f s else s.reg q :=
      reg_sdtIndexed f s q
    exact reg_sdtFinish (by rw [hreg, if_pos rfl, baseAfterAccess_sdtAddress])
      (fun q hq => by rw [hreg, if_neg hq]) r
  case bytes => rw [State.byteAt, hmem, read_writeWord, if_neg h3, if_neg h2, if_neg h1, if_neg h0]; rfl

/-- Settles O23: the row `P = 1`, `W = 0` of a load into its own base (R156). -/
theorem loadIntoBaseIsUndone : Obligations.LoadIntoBaseIsUndone := by
  intro f s hdn hpc hp hw ha
  have haddr : sdtAddress f s = s.reg f.rn + sdtOffsetValue s f.u f.offset := by rw [sdtAddress, hp, if_pos rfl]
  obtain ⟨t, v, b, h, hv, hb, hregs, -, -, hc⟩ := ldrCompletes f s (haddr ▸ ha)
  refine ⟨t, h, ?value, ?count⟩
  case value =>
    rw [hregs, if_neg hpc, if_pos rfl, hb, if_pos hdn, loadedBaseAfter, hp, hw, hv, haddr]
  case count =>
    rw [hc.writes, hw, hdn]
    simp [hpc]

/-! ### Branch (spec/44_branch.md) -/

theorem exec_b (f : BranchFields) (s : State) : exec (.b f) s = execB f s := rfl

/-- Case 2 of R171. -/
theorem execB_notEqual {f : BranchFields} (s : State) (h : f.cond = condNe) :
    execB f s = .next (s.countFlagRead.setPc (if s.flags ≠ 0#32 then branchTarget s.pc f.imm24 else s.pc + 4#32)) := by
  rw [execB, if_pos h]
  split <;> rfl

/-- Case 3 of R171: the condition is the flag register as a number. -/
theorem execB_flags {f : BranchFields} {s : State} (hne : f.cond ≠ condNe) (h : f.cond.toNat = s.flags.toNat) :
    execB f s = .next (s.countFlagRead.setPc (branchTarget s.pc f.imm24)) := by
  rw [execB, if_neg hne, if_pos ((condIsFlags_iff s f.cond).mpr h)]

/-- Case 4 of R171: no match. -/
theorem execB_notTaken {f : BranchFields} {s : State} (hne : f.cond ≠ condNe) (h : f.cond.toNat ≠ s.flags.toNat)
    (hal : f.cond ≠ condAl) : execB f s = .next (s.countFlagRead.setPc (s.pc + 4#32)) := by
  rw [execB, if_neg hne, if_neg (fun hc => h ((condIsFlags_iff s f.cond).mp hc)), if_pos hal]

/-- Case 5 of R171: no flag read. -/
theorem execB_always {f : BranchFields} {s : State} (hal : f.cond = condAl) (h : f.cond.toNat ≠ s.flags.toNat) :
    execB f s = .next (s.setPc (branchTarget s.pc f.imm24)) := by
  have hne : f.cond ≠ condNe := by rw [hal]; decide
  rw [execB, if_neg hne, if_neg (fun hc => h ((condIsFlags_iff s f.cond).mp hc)), if_neg (not_not.mpr hal)]

/-- A B that reads the flags and jumps: what the three cases with a flag read have in common. -/
theorem exec_b_readsFlags {f : BranchFields} {s : State} {target : Word}
    (h : execB f s = .next (s.countFlagRead.setPc target)) :
    ∃ t, exec (.b f) s = .next t ∧ (∀ r, t.reg r = afterJump s target r) ∧ t.flags = s.flags ∧ RestSame s t ∧
      Counted s t [] [] 1 0 :=
  ⟨_, h, reg_setPc _ _, rfl, exec_restSame (i := .b f) h nofun,
    (counted_countFlagRead s).trans (counted_of_telemetry_eq (telemetry_setPc _ target))⟩

/-- Settles O24: case 2. -/
theorem branchNotEqual : Obligations.BranchNotEqual :=
  fun _ s hne => exec_b_readsFlags (execB_notEqual s hne)

/-- Settles O25: case 3. -/
theorem branchConditionIsFlags : Obligations.BranchConditionIsFlags :=
  fun _ _ hne h => exec_b_readsFlags (execB_flags hne h)

/-- Settles O26: case 4. -/
theorem branchNotTaken : Obligations.BranchNotTaken :=
  fun _ _ hne h hal => exec_b_readsFlags (execB_notTaken hne h hal)

/-- Settles O27: case 5, but for the flag register `0xE`, which case 3 takes first. -/
theorem branchAlways : Obligations.BranchAlways := by
  intro f s hal
  have hcond : f.cond.toNat = 14 := congrArg BitVec.toNat hal
  by_cases hf : s.flags = 0xE#32
  · rw [if_pos hf]
    exact exec_b_readsFlags (execB_flags (by rw [hal]; decide) (by rw [hcond, hf]; rfl))
  · rw [if_neg hf]
    have hne : f.cond.toNat ≠ s.flags.toNat := fun e => hf (BitVec.eq_of_toNat_eq (e.symm.trans hcond))
    have h : exec (.b f) s = _ := execB_always hal hne
    exact ⟨_, h, reg_setPc s _, rfl, exec_restSame h nofun, counted_of_telemetry_eq (telemetry_setPc s _)⟩

theorem exec_bl (f : BranchFields) (s : State) :
    exec (.bl f) s =
      .next ((((s.countRead Reg.pc).setReg Reg.lr (s.pc + 4#32)).countWrite Reg.lr).setPc (branchTarget s.pc f.imm24)) :=
  rfl

/-- Settles O28: both addresses are computed from the program counter before its write. -/
theorem blCompletes : Obligations.BlCompletes := by
  intro f s
  have h := exec_bl f s
  refine ⟨_, h, fun r => ?registers, exec_flags_eq h rfl, exec_restSame h nofun, exec_counted_of_not_b h nofun⟩
  case registers => simp [branchTarget]

/-- R171: a B branches when its condition is 'not-equal' and the flags are not 0, or is another one that is the flags or
is 'always'. -/
abbrev branchTaken (cond : BitVec 4) (flags : Word) : Prop :=
  if cond = condNe then flags ≠ 0#32 else cond.toNat = flags.toNat ∨ cond = condAl

/-- Where a B goes, by the rule over the five cases. -/
theorem execB_pc (f : BranchFields) (s : State) :
    ∃ t, execB f s = .next t ∧ (branchTaken f.cond s.flags → t.pc = branchTarget s.pc f.imm24) ∧
      (¬ branchTaken f.cond s.flags → t.pc = s.pc + 4#32) := by
  by_cases hne : f.cond = condNe
  · exact ⟨_, execB_notEqual s hne, by simp_all [branchTaken], by simp_all [branchTaken]⟩
  by_cases hflags : f.cond.toNat = s.flags.toNat
  · exact ⟨_, execB_flags hne hflags, fun _ => pc_setPc _ _, by simp [branchTaken, hne, hflags]⟩
  by_cases hal : f.cond = condAl
  · have htaken : branchTaken f.cond s.flags := by
      rw [branchTaken, if_neg hne]
      exact .inr hal
    exact ⟨_, execB_always hal hflags, fun _ => pc_setPc _ _, fun hno => absurd htaken hno⟩
  · exact ⟨_, execB_notTaken hne hflags hal, by simp [branchTaken, hne, hflags, hal], fun _ => pc_setPc _ _⟩

/-- R180: the rule over the sixteen conditions and the four reference flag values. -/
theorem branchTaken_iff_table (cond : BitVec 4) {flags : Word} (hflags : flags ∈ [0x0#32, 0xC#32, 0xB#32, 0x4#32]) :
    branchTaken cond flags ↔
      (cond.toNat, flags.toNat) ∈
        [(0x0, 0x0), (0x1, 0xC), (0x1, 0xB), (0x1, 0x4), (0x4, 0x4), (0xB, 0xB), (0xC, 0xC), (0xE, 0x0), (0xE, 0xC),
          (0xE, 0xB), (0xE, 0x4)] := by
  revert cond
  fin_cases hflags <;> decide

/-- Settles O29: the two outcomes differ, so the table is where the rule of R171 holds. -/
theorem conditionTable : Obligations.ConditionTable := by
  intro f s hflags htarget
  obtain ⟨t, h, htaken, hnot⟩ := execB_pc f s
  refine ⟨t, h, ?_⟩
  rw [← branchTaken_iff_table f.cond hflags]
  refine ⟨fun hpc => ?_, htaken⟩
  by_contra hno
  exact htarget (hpc.symm.trans (hnot hno))

/-! ### The memory port (spec/20_memory.md) -/

/-- Settles O31: the port answers the little-endian word of the four bytes. -/
theorem readIsLittleEndian : Obligations.ReadIsLittleEndian := by
  intro s a v h
  rw [((memRead_ok_iff s a v).mp h).2, State.wordAt, toNat_wordOfBytes]

/-- Settles O32: the store's four bytes read back, every other as before. -/
theorem storeThenLoad : Obligations.StoreThenLoad := by
  intro s t a v h
  obtain ⟨-, rfl⟩ := (memWrite_ok_iff s t a v).mp h
  have hword := wordAt_writeWord (s.setMem (s.mem.writeWord a v)) s.mem a v rfl
  refine ⟨hword, fun ha => (memRead_ok_iff _ a v).mpr ⟨ha, hword.symm⟩, fun b h0 h1 h2 h3 => ?_⟩
  rw [State.byteAt, mem_setMem, read_writeWord, if_neg h3, if_neg h2, if_neg h1, if_neg h0]
  rfl

/-- Settles O33. The port stores a whole word or nothing. -/
theorem storeKeepsCanonicalForm : Obligations.StoreKeepsCanonicalForm := by
  intro s t a v hwf h
  obtain ⟨-, rfl⟩ := (memWrite_ok_iff s t a v).mp h
  exact wf_writeWord _ a v hwf

/-- R52, D3: the addresses of a word's bytes, as numbers. -/
theorem toNat_add_ofNat (a : Word) (i : Nat) : (a + BitVec.ofNat 32 i).toNat = (a.toNat + i) % 2 ^ 32 := by
  rw [BitVec.toNat_add, BitVec.toNat_ofNat, Nat.add_mod_mod]

/-- R54: a byte address is valid, in numbers and without the model's own tests. -/
def validAt (c : Config) (k : AccessKind) (n : Nat) : Prop :=
  (c.stackBase.toNat ≤ n ∧ n < c.stackBase.toNat + 16384) ∨
    ∃ r ∈ c.regions, r.base ≤ n ∧ n < r.base + r.size ∧
      (match k with
        | .read => r.readable = true
        | .write => r.writable = true)

theorem validByte_iff_validAt (c : Config) (a : Word) (k : AccessKind) :
    validByte c a k = true ↔ validAt c k a.toNat := by
  rw [validByte_iff, validAt]
  cases k <;> simp only [and_assoc, regionPermits, stackSize]

/-- R52, R55, R207: the port's test, byte by byte. -/
theorem accessOk_iff (c : Config) (a : Word) (k : AccessKind) :
    accessOk c a k = true ↔
      (a.toNat % 4 = 0 ∨ c.misaligned = .bytewise) ∧ ∀ i < 4, validAt c k ((a.toNat + i) % 2 ^ 32) := by
  have hbytes : (∀ i < 4, validAt c k ((a.toNat + i) % 2 ^ 32)) ↔
      ∀ i < 4, validByte c (a + BitVec.ofNat 32 i) k = true := by
    simp only [validByte_iff_validAt, toNat_add_ofNat]
  have hfour : (∀ i < 4, validByte c (a + BitVec.ofNat 32 i) k = true) ↔
      validByte c a k = true ∧ validByte c (a + 1#32) k = true ∧ validByte c (a + 2#32) k = true ∧
        validByte c (a + 3#32) k = true := by
    constructor
    · intro h
      exact ⟨by simpa using h 0, h 1 (by decide), h 2 (by decide), h 3 (by decide)⟩
    · rintro ⟨h0, h1, h2, h3⟩ i hi
      interval_cases i
      · simpa using h0
      · exact h1
      · exact h2
      · exact h3
  rw [hbytes, hfour]
  simp only [accessOk, aligned, Bool.and_eq_true, Bool.or_eq_true, beq_iff_eq, and_assoc]

/-- Settles O30: the numbers of the four addresses, and the test of each. -/
theorem portAdmits : Obligations.PortAdmits := by
  intro c a k
  rw [accessOk_iff]
  simp only [exists_eq_left]
  cases k <;> exact Iff.rfl

end Sys2Proof.Machine

/-! ### Registers, unread fields, reset (spec/10_state.md) -/

namespace Sys2Proof.Machine

/-- Settles O58: the write reads back at its own number alone. -/
theorem registersAreDistinct : Obligations.RegistersAreDistinct := by
  intro s d r v
  exact ⟨by rw [reg_setReg, if_pos rfl], fun hr => by rw [reg_setReg, if_neg hr]⟩

/-- Settles O50: each unit's meaning is the same term whatever the field holds. -/
theorem unreadFieldsHaveNoEffect : Obligations.UnreadFieldsHaveNoEffect := by
  refine ⟨fun f c k b s mk hmk => ?dp, fun _ _ _ _ _ => rfl, fun _ _ _ => rfl, fun f c b s mk hmk => ?sdt,
    fun _ _ _ _ => ⟨rfl, rfl⟩⟩
  case dp => fin_cases hmk <;> exact ⟨rfl, fun _ _ _ _ _ => rfl⟩
  case sdt => fin_cases hmk <;> exact ⟨rfl, fun _ _ _ _ _ => rfl⟩

/-- Settles O51: the reset state is written out, and its memory lists nothing. -/
theorem resetIsAllZero : Obligations.ResetIsAllZero :=
  ⟨fun _ => Vector.getElem_replicate _, rfl, fun _ _ => rfl,
    fun _ => ⟨Vector.getElem_replicate _, Vector.getElem_replicate _⟩, rfl, rfl, rfl⟩

/-- R230: zeroing the stack buffer drops its bytes, which then read as an unlisted byte, 0. -/
theorem read_zeroStack (c : Config) (m : Memory) (a : Word) :
    (zeroStack c m).read a.toNat = if inStack c a then 0#8 else m.read a.toNat := by
  refine (read_filter m
    (fun n => !(decide (c.stackBase.toNat ≤ n) && decide (n < c.stackBase.toNat + stackSize))) a.toNat).trans ?_
  change (if !inStack c a then m.read a.toNat else 0#8) = _
  cases inStack c a <;> rfl

/-- Settles O52: only the stack buffer's bytes are dropped from memory, which stays canonical. -/
theorem resetStateZeroes : Obligations.ResetStateZeroes :=
  fun s => ⟨fun _ => Vector.getElem_replicate _, rfl, rfl, read_zeroStack s.config s.mem, rfl, wf_filter s.mem _⟩

/-! ### The call driver (spec/70_reset_and_hazards.md section 1) -/

/-- R231: one more argument is one more register. -/
theorem loadArgs_succ (vals : Vector Word 4) {n : Nat} (hn : n < 4) (s : State) :
    loadArgs vals (n + 1) s = (loadArgs vals n s).setReg (BitVec.ofNat 4 n) vals[n] := by
  interval_cases n <;> rfl

/-- R231, D25: the argument registers up to the count, every other as before. -/
theorem reg_loadArgs (vals : Vector Word 4) (s : State) (r : Reg) {n : Nat} (hn : n ≤ 4) :
    (loadArgs vals n s).reg r = if h : r.toNat < n then vals[r.toNat] else s.reg r := by
  induction n with
  | zero => rfl
  | succ n ih =>
    rw [loadArgs_succ vals hn, reg_setReg, ih (by omega)]
    by_cases hr : r = BitVec.ofNat 4 n
    · have hrn : r.toNat = n := by rw [hr, BitVec.toNat_ofNat]; omega
      rw [if_pos hr, dif_pos (by omega)]
      simp only [hrn]
    · have hrn : r.toNat ≠ n := fun e => hr (by rw [← e, BitVec.ofNat_toNat, BitVec.setWidth_eq])
      have hlt : r.toNat < n + 1 ↔ r.toNat < n := by omega
      simp only [if_neg hr, hlt]

theorem loadArgs_frame (vals : Vector Word 4) (n : Nat) (s : State) :
    (loadArgs vals n s).flags = s.flags ∧ (loadArgs vals n s).mem = s.mem ∧
      (loadArgs vals n s).telemetry = s.telemetry ∧ (loadArgs vals n s).status = s.status ∧
      (loadArgs vals n s).config = s.config := by
  unfold loadArgs
  split <;> exact ⟨rfl, rfl, rfl, rfl, rfl⟩

/-- R231: the call loaded, for an admitted count. -/
theorem loadCall_eq (entry : Word) {count : Nat} (vals : Vector Word 4) (s : State) (h : count ≤ 4) :
    loadCall entry count vals s =
      .next ((((loadArgs vals count s).setReg Reg.sp (stackTop s.config)).setReg Reg.lr retSentinel).setPc entry) := by
  have hok : ¬ ((count : Int) < 0 ∨ (count : Int) > maxArgs) := by
    unfold maxArgs
    omega
  rw [loadCall, if_neg hok, Int.toNat_natCast]

/-- R201, D28: a count that is not admitted is fatal before anything is loaded. -/
theorem loadCall_bad (entry : Word) {count : Int} (vals : Vector Word 4) (s : State) (h : count < 0 ∨ 4 < count) :
    loadCall entry count vals s = .fault (.badArgCount count) := by
  have hbad : count < 0 ∨ count > maxArgs := h
  rw [loadCall, if_pos hbad, raiseFatal]

/-- Settles O53: the three named registers are written after the arguments and apart from them. -/
theorem loadCallLoads : Obligations.LoadCallLoads := by
  intro entry count vals s hcount
  obtain ⟨hflags, hmem, htel, hstatus, hconfig⟩ := loadArgs_frame vals count s
  have hsp : Reg.sp ≠ Reg.pc ∧ Reg.sp ≠ Reg.lr := by decide
  have hlr : Reg.lr ≠ Reg.pc := by decide
  have hlow (r : Reg) (hr : r.toNat ≤ 12) :
      ((((loadArgs vals count s).setReg Reg.sp (stackTop s.config)).setReg Reg.lr retSentinel).setPc entry).reg r =
        (loadArgs vals count s).reg r := by
    have hpc : r ≠ Reg.pc := by rintro rfl; exact absurd hr (by decide)
    have hlr : r ≠ Reg.lr := by rintro rfl; exact absurd hr (by decide)
    have hsp : r ≠ Reg.sp := by rintro rfl; exact absurd hr (by decide)
    rw [reg_setPc, if_neg hpc, reg_setReg, if_neg hlr, reg_setReg, if_neg hsp]
  refine ⟨_, loadCall_eq entry vals s hcount, fun i hi => ?args, fun r h4 h12 => ?others,
    by simp [stackTop, stackSize, hsp], by simp [retSentinel, hlr], pc_setPc _ _, hflags, hmem, htel, hstatus, hconfig⟩
  case args =>
    have hnum : (BitVec.ofNat 4 i).toNat = i := by rw [BitVec.toNat_ofNat]; omega
    rw [hlow _ (by omega), reg_loadArgs vals s _ hcount]
    simp only [hnum]
    split <;> rfl
  case others => rw [hlow r h12, reg_loadArgs vals s r hcount, dif_neg (by omega)]

/-- Settles O54: the driver's loop is not entered. -/
theorem badArgumentCountIsFatal : Obligations.BadArgumentCountIsFatal := by
  intro fuel entry count vals s h
  rw [emu, loadCall_bad entry vals _ h]

/-! ### Runs (spec/45_fetch_execute_loop.md section 1) -/

/-- R35: a run that is over stays as it is, whatever the bound. -/
theorem runLoop_of_over {s : State} (h : s.status ≠ .running) (n : Nat) : runLoop n s = .next s := by
  cases n with
  | zero => rfl
  | succ n =>
    unfold runLoop
    cases hs : s.status with
    | running => exact absurd hs h
    | done => rfl
    | fatal f => rfl

theorem runLoop_succ_of_next {s t : State} (hs : s.status = .running) (h : step s = .next t) (n : Nat) :
    runLoop (n + 1) s = runLoop n t := by
  rw [runLoop, hs, h]

theorem runLoop_succ_of_fault {s : State} {f : Fault} (hs : s.status = .running) (h : step s = .fault f) (n : Nat) :
    runLoop (n + 1) s = .next (s.endFatal f) := by
  rw [runLoop, hs, h]

/-- R190, R200: a run is over already, or makes a step, or stops at one, whatever the bound beyond the first step. -/
theorem runLoop_cases (s : State) :
    (s.status ≠ .running ∧ ∀ k, runLoop k s = .next s) ∨
    (∃ t, step s = .next t ∧ ∀ k, runLoop (k + 1) s = runLoop k t) ∨
    ∃ f, ∀ k, runLoop (k + 1) s = .next (s.endFatal f) := by
  by_cases hs : s.status = .running
  · obtain ⟨t, ht⟩ | ⟨a, k, hf⟩ := onlyMemoryFaultsStopARun s hs
    · exact .inr (.inl ⟨t, ht, runLoop_succ_of_next hs ht⟩)
    · exact .inr (.inr ⟨_, runLoop_succ_of_fault hs hf⟩)
  · exact .inl ⟨hs, runLoop_of_over hs⟩

/-- Settles O56: by induction on the smaller bound, along the run. -/
theorem largerBoundSameEnd : Obligations.LargerBoundSameEnd := by
  intro n k s t h hover
  induction n generalizing s with
  | zero => cases h; exact runLoop_of_over hover _
  | succ n ih =>
    rw [Nat.succ_add]
    obtain ⟨-, hall⟩ | ⟨u, -, hstep⟩ | ⟨f, hfault⟩ := runLoop_cases s
    · rw [hall] at h ⊢; exact h
    · rw [hstep] at h ⊢; exact ih u h
    · rw [hfault] at h ⊢; exact h

/-- R192: a run that starts with `Done` only at the sentinel ends with it only there. -/
theorem runLoop_done_at_sentinel {n : Nat} {s u : State} (hs : s.status = .done → s.pc = retSentinel)
    (h : runLoop n s = .next u) : u.status = .done → u.pc = retSentinel := by
  induction n generalizing s with
  | zero => cases h; exact hs
  | succ n ih =>
    obtain ⟨-, hall⟩ | ⟨t, ht, hstep⟩ | ⟨f, hfault⟩ := runLoop_cases s
    · rw [hall] at h; cases h; exact hs
    · rw [hstep] at h; exact ih (doneExactlyAtZero s t ht).1.mp h
    · rw [hfault] at h; cases h; exact nofun

/-- A loaded call leaves the run status to the loop. -/
theorem loadCall_status {entry : Word} {count : Int} {vals : Vector Word 4} {s t : State}
    (h : loadCall entry count vals s = .next t) : t.status = s.status := by
  unfold loadCall at h
  split at h
  · cases h
  · obtain ⟨-, -, -, hstatus, -⟩ := loadArgs_frame vals count.toNat s
    cases h
    exact hstatus

/-- Settles O55: the driver reads the state its loop ends with. -/
theorem callReturnsRegisterZero : Obligations.CallReturnsRegisterZero := by
  intro fuel entry count vals s t u hload hrun hdone
  have hstart : t.settle.status = .done → t.settle.pc = retSentinel := by
    rw [status_settle, loadCall_status hload, pc_settle]
    split
    · next hz => exact fun _ => hz
    · exact nofun
  refine ⟨runLoop_done_at_sentinel hstart hrun hdone, ?_⟩
  rw [emu, hload]
  simp only [hrun, readResult, hdone]

/-! ### The branch to itself (spec/60_exceptions.md R206) -/

/-- The loop is about to run `B .`, word `EAFFFFFE`. -/
structure AtSelfBranch (s : State) : Prop where
  running : s.status = .running
  pc_ne : s.pc ≠ retSentinel
  fetch : accessOk s.config s.pc .read = true
  word : s.wordAt s.pc = 0xEAFFFFFE#32

/-- The word's instruction, under either mask. -/
theorem decodeWord_selfBranch (m : BClassMask) :
    decodeWord m 0xEAFFFFFE#32 = .ok (.b ⟨0b1110#4, false, 0xFFFFFE#24⟩) := by
  cases m <;> decide

/-- R170: its offset is -8, which the `+ 8` of the target takes back. -/
theorem branchTarget_self (pc : Word) : branchTarget pc 0xFFFFFE#24 = pc := by
  have hoffset : branchOffset 0xFFFFFE#24 = -8#32 := by decide
  rw [branchTarget, hoffset]
  bv_omega

/-- One pass of the hang: the same branch is about to run again, one branch more counted. -/
theorem step_selfBranch {s : State} (h : AtSelfBranch s) :
    ∃ t, step s = .next t ∧ AtSelfBranch t ∧ t.pc = s.pc ∧ t.telemetry.branchOps = s.telemetry.branchOps + 1 := by
  obtain ⟨t, ht, hregs, -, hrest, hc⟩ :=
    branchAlways ⟨0b1110#4, false, 0xFFFFFE#24⟩ (s.countFamily .branch) rfl
  have hpc : t.pc = s.pc := by
    rw [State.pc, hregs, afterJump, if_pos rfl, branchTarget_self, pc_countFamily]
  have hbytes (a : Word) : t.byteAt a = s.byteAt a :=
    (hrest.bytes a).trans (byteAt_congr (mem_countFamily s .branch) a)
  have hconfig : t.config = s.config := hrest.config.trans (config_countFamily s .branch)
  have hsettle : t.settle = t := by rw [State.settle, hpc, if_neg h.pc_ne]
  refine ⟨t, ?step, ⟨?running, hpc ▸ h.pc_ne, ?fetch, ?word⟩, hpc, hc.branchOps⟩
  case step =>
    rw [step_of_decode s _ h.running h.pc_ne h.fetch (by rw [h.word]; exact decodeWord_selfBranch _), runInstr]
    exact (congrArg settleOutcome ht).trans (congrArg Host.Outcome.next hsettle)
  case running => rw [hrest.status, status_countFamily, h.running]
  case fetch => rw [hconfig, hpc, h.fetch]
  case word => rw [hpc, ← h.word]; simp only [State.wordAt, hbytes]

/-- Settles O57: by induction on the bound, one pass at a time. -/
theorem branchToSelfNeverEnds : Obligations.BranchToSelfNeverEnds := by
  intro n s hs hz ha hw
  have h : AtSelfBranch s := ⟨hs, hz, ha, hw⟩
  clear hs hz ha hw
  induction n generalizing s with
  | zero => exact ⟨s, rfl, h.running, rfl, rfl⟩
  | succ n ih =>
    obtain ⟨u, hu, hself, hpc, hops⟩ := step_selfBranch h
    obtain ⟨t, ht, hrun, htpc, htops⟩ := ih u hself
    refine ⟨t, ?_, hrun, htpc.trans hpc, by omega⟩
    rw [runLoop_succ_of_next h.running hu, ht]

end Sys2Proof.Machine
